-- ==== Sys2Proof/Word.lean ====
section
/-! DEFINITION. The word types of the VALU's ports (spec/10_state.md R33): the 32-bit scalar ports, operation word and float lanes, and the 128 bits of a tagged value. -/

namespace Sys2Proof

/-- A 32-bit port, register or binary32 lane (spec/10_state.md R33, spec/00_scope.md R4). -/
abbrev Word := BitVec 32

/-- The 128 bits of a tagged value (spec/10_state.md R20). -/
abbrev Bits := BitVec 128

end Sys2Proof
end

