-- ==== Sys2Proof/Syntax.lean ====
section
/-! DEFINITION. The seven lane-type tags (spec/00_scope.md R2) and the 41 operations (spec/30_encoding.md R52), one constructor per row of spec/opcode_table.json. -/

namespace Sys2Proof

/-- The lane-type tags, in the order of spec/10_state.md R21's table. -/
inductive Tag where
  | float32x4
  | int32x4
  | int16x8
  | int8x16
  | bool32x4
  | bool16x8
  | bool8x16
deriving DecidableEq, Repr

/-- What a 3-bit tag field holds (spec/10_state.md R20, R21): one of the seven tags, or `none` for code 7,
which is no tag. -/
abbrev TagField := Option Tag

/-- The operations of spec/30_encoding.md R52. The only operand inside the operation word is the target tag TT
(R51), which CONSTRUCT, CVT and FROMBITS carry; every other operand comes from a port. -/
inductive Instr where
  -- lane access, spec/40_lane_access.md
  | construct (tt : TagField)
  | extractLane
  | replaceLane
  -- arithmetic, spec/41_arithmetic.md
  | neg
  | add
  | sub
  | mul
  | div
  | sqrt
  | abs
  | rcpApprox
  | rsqrtApprox
  | min
  | max
  | minNum
  | maxNum
  | addSat
  | subSat
  -- comparators and logic, spec/42_relational_logical.md
  | eq
  | ne
  | lt
  | le
  | gt
  | ge
  | and
  | or
  | xor
  | not
  -- shifts, spec/43_shift.md
  | shl
  | shrl
  | shra
  -- permute and select, spec/44_permute_select.md
  | swizzle
  | shuffle
  | select
  -- casts, spec/45_conversion.md
  | cvt (tt : TagField)
  | fromBits (tt : TagField)
  -- equality and reductions, spec/46_equality_reduction.md
  | bitEq
  | sameValue
  | sameValueZero
  | anyTrue
  | allTrue
deriving DecidableEq, Repr

end Sys2Proof
end

