-- ==== Sys2Proof/WellFormed.lean ====
section
/-! DEFINITION. Which instructions have a legal operation word (spec/30_encoding.md R53). -/

namespace Sys2Proof

/-- An instruction is well formed when R53 does not make its operation word illegal: CONSTRUCT and FROMBITS refuse
TT = 7. CVT's TT is not checked by R53 but by the tag check of R54, so every TT makes a well-formed CVT. -/
def Instr.wellFormed : Instr → Bool
  | .construct tt => tt.isSome
  | .fromBits tt => tt.isSome
  | .cvt _ => true
  | .extractLane | .replaceLane => true
  | .neg | .add | .sub | .mul | .div | .sqrt | .abs | .rcpApprox | .rsqrtApprox => true
  | .min | .max | .minNum | .maxNum | .addSat | .subSat => true
  | .eq | .ne | .lt | .le | .gt | .ge | .and | .or | .xor | .not => true
  | .shl | .shrl | .shra | .swizzle | .shuffle | .select => true
  | .bitEq | .sameValue | .sameValueZero | .anyTrue | .allTrue => true

end Sys2Proof
end

