-- ==== Sys2Proof/Decode.lean ====
section
/-! DEFINITION. Decoding and encoding of the operation word (spec/30_encoding.md R50, R52, R53). -/

namespace Sys2Proof

/-- The codes of spec/10_state.md R21; 7 marks no tag. -/
def tagCode : TagField → BitVec 3
  | some .float32x4 => 0
  | some .int32x4 => 1
  | some .int16x8 => 2
  | some .int8x16 => 3
  | some .bool32x4 => 4
  | some .bool16x8 => 5
  | some .bool8x16 => 6
  | none => 7

/-- Reading a 3-bit tag field (spec/10_state.md R21). -/
def tagOfCode (c : BitVec 3) : TagField :=
  match c.toNat with
  | 0 => some .float32x4
  | 1 => some .int32x4
  | 2 => some .int16x8
  | 3 => some .int8x16
  | 4 => some .bool32x4
  | 5 => some .bool16x8
  | 6 => some .bool8x16
  | _ => none

/-- Why an operation word is illegal (R53). Every reason gets the same response, IllegalRequest(0). -/
inductive DecodeError where
  | reservedBits      -- OPW[31:9] is not 0
  | reservedOp        -- OP names no operation
  | unusedTarget      -- TT is not 0 and the operation has no target tag
  | noTargetTag       -- TT is 7 for CONSTRUCT or FROMBITS
deriving DecidableEq, Repr

/-- What an OP number stands for: an operation without a target tag, one with a target tag, or nothing. -/
inductive OpRow where
  | plain (i : Instr)
  | targeted (i : TagField → Instr)
  | reserved

/-- The opcode map of R52. -/
def opRow : Nat → OpRow
  | 0x01 => .targeted .construct
  | 0x02 => .plain .extractLane
  | 0x03 => .plain .replaceLane
  | 0x08 => .plain .neg
  | 0x09 => .plain .add
  | 0x0A => .plain .sub
  | 0x0B => .plain .mul
  | 0x0C => .plain .div
  | 0x0D => .plain .sqrt
  | 0x0E => .plain .abs
  | 0x0F => .plain .rcpApprox
  | 0x10 => .plain .rsqrtApprox
  | 0x11 => .plain .min
  | 0x12 => .plain .max
  | 0x13 => .plain .minNum
  | 0x14 => .plain .maxNum
  | 0x15 => .plain .addSat
  | 0x16 => .plain .subSat
  | 0x18 => .plain .eq
  | 0x19 => .plain .ne
  | 0x1A => .plain .lt
  | 0x1B => .plain .le
  | 0x1C => .plain .gt
  | 0x1D => .plain .ge
  | 0x20 => .plain .and
  | 0x21 => .plain .or
  | 0x22 => .plain .xor
  | 0x23 => .plain .not
  | 0x24 => .plain .shl
  | 0x25 => .plain .shrl
  | 0x26 => .plain .shra
  | 0x28 => .plain .swizzle
  | 0x29 => .plain .shuffle
  | 0x2A => .plain .select
  | 0x30 => .targeted .cvt
  | 0x31 => .targeted .fromBits
  | 0x38 => .plain .bitEq
  | 0x39 => .plain .sameValue
  | 0x3A => .plain .sameValueZero
  | 0x3B => .plain .anyTrue
  | 0x3C => .plain .allTrue
  | _ => .reserved

/-- The fields of the operation word (R50). -/
def opField (w : Word) : BitVec 6 := w.extractLsb' 0 6

/-- OPW[8:6], the target tag code TT (R50). -/
def targetField (w : Word) : BitVec 3 := w.extractLsb' 6 3

/-- OPW[31:9], reserved (R50). -/
def reservedField (w : Word) : BitVec 23 := w.extractLsb' 9 23

/-- Decoding an operation word: total, and rejecting by name every word R53 calls illegal. -/
def decode (w : Word) : Except DecodeError Instr :=
  if reservedField w ≠ 0 then .error .reservedBits
  else
    match opRow (opField w).toNat with
    | .reserved => .error .reservedOp
    | .plain i => if targetField w = 0 then .ok i else .error .unusedTarget
    | .targeted i =>
      if (i (tagOfCode (targetField w))).wellFormed then .ok (i (tagOfCode (targetField w)))
      else .error .noTargetTag

/-- The OP number of each operation (R52). -/
def opNumber : Instr → BitVec 6
  | .construct _ => 0x01
  | .extractLane => 0x02
  | .replaceLane => 0x03
  | .neg => 0x08
  | .add => 0x09
  | .sub => 0x0A
  | .mul => 0x0B
  | .div => 0x0C
  | .sqrt => 0x0D
  | .abs => 0x0E
  | .rcpApprox => 0x0F
  | .rsqrtApprox => 0x10
  | .min => 0x11
  | .max => 0x12
  | .minNum => 0x13
  | .maxNum => 0x14
  | .addSat => 0x15
  | .subSat => 0x16
  | .eq => 0x18
  | .ne => 0x19
  | .lt => 0x1A
  | .le => 0x1B
  | .gt => 0x1C
  | .ge => 0x1D
  | .and => 0x20
  | .or => 0x21
  | .xor => 0x22
  | .not => 0x23
  | .shl => 0x24
  | .shrl => 0x25
  | .shra => 0x26
  | .swizzle => 0x28
  | .shuffle => 0x29
  | .select => 0x2A
  | .cvt _ => 0x30
  | .fromBits _ => 0x31
  | .bitEq => 0x38
  | .sameValue => 0x39
  | .sameValueZero => 0x3A
  | .anyTrue => 0x3B
  | .allTrue => 0x3C

/-- The TT code of each operation (R50): the target tag where the operation has one, else 0. -/
def targetNumber : Instr → BitVec 3
  | .construct tt => tagCode tt
  | .cvt tt => tagCode tt
  | .fromBits tt => tagCode tt
  | .extractLane | .replaceLane => 0
  | .neg | .add | .sub | .mul | .div | .sqrt | .abs | .rcpApprox | .rsqrtApprox => 0
  | .min | .max | .minNum | .maxNum | .addSat | .subSat => 0
  | .eq | .ne | .lt | .le | .gt | .ge | .and | .or | .xor | .not => 0
  | .shl | .shrl | .shra | .swizzle | .shuffle | .select => 0
  | .bitEq | .sameValue | .sameValueZero | .anyTrue | .allTrue => 0

/-- The operation word of an instruction: RSV = 0, then TT, then OP (R50). -/
def encode (i : Instr) : Word := 0#23 ++ targetNumber i ++ opNumber i

/-- The instruction the decoder reads from a word numbered as spec/opcode_table.json numbers it; every bit above the
row's `nbits` is 0. An operation word is one 32-bit port value, so no byte order enters. -/
def decodeTableWord (nbits w : Nat) : Option Instr :=
  (decode (BitVec.ofNat 32 (w % 2 ^ nbits))).toOption

end Sys2Proof
end

