-- ==== Sys2Proof/Config.lean ====
section
/-! DEFINITION. The parameters the spec leaves open (spec/00_scope.md R5), each an uninterpreted constant: nothing in Lean can evaluate one or prove a value of it. -/

namespace Sys2Proof

/-- The binary32 operations whose NaN results are draws (spec/41_arithmetic.md R103). -/
inductive FloatOp where
  | add
  | sub
  | mul
  | div
  | sqrt
deriving DecidableEq, Repr

/-- The free sign bit of `FP_NAN_RESULT(op, a, b)` (R103). The first argument numbers the request's draw
(`State.draws`), the second the lane, so that no two draws are assumed equal (spec/20_memory.md R45). Log entry 5. -/
opaque Config.nanSign (draw lane : Nat) (op : FloatOp) (a b : Word) : Bool

/-- The free bits [21:0] of `FP_NAN_RESULT(op, a, b)` (R103). Log entry 5. -/
opaque Config.nanPayload (draw lane : Nat) (op : FloatOp) (a b : Word) : BitVec 22

/-- `RCP_APPROX` (R117, spec/00_scope.md R5), "an opaque total function of the lane alone", of which nothing is assumed. Log
entry 18 says how spec/20_memory.md R45 is read beside it. -/
opaque Config.rcpApprox (a : Word) : Word

/-- `RSQRT_APPROX` (R118, R5), likewise of the lane alone, of which nothing is assumed. Log entry 18. -/
opaque Config.rsqrtApprox (a : Word) : Word

/-- How far `LATENCY` lies above its least value, 1 (R5). -/
opaque Config.latencyAboveOne : Nat

/-- `LATENCY` (spec/70_reset_and_hazards.md R222), cycles from request to response, at least 1. Only the clocked view of
`Machine/Clock.lean` uses it: no rule of the operation semantics depends on it (R223). -/
def Config.latency : Nat := Config.latencyAboveOne + 1

end Sys2Proof
end

