-- ==== Sys2Proof/Machine/State.lean ====
section
/-! DEFINITION. The machine's state as plain data: the response register (spec/10_state.md R34, R35), the request port's signals (R33), and the model's two bookkeeping fields. -/

namespace Sys2Proof.Machine

/-- A tagged value as it stands on a port (R33, R34): a 3-bit tag field and 128 bits. -/
structure Port where
  tag : TagField
  bits : Bits
deriving DecidableEq, Repr

/-- `NONE`, the tagged value {tag 7, bits 0} that means "no vector result" (spec/00_scope.md, section 5). -/
def Port.none : Port := { tag := Option.none, bits := 0 }

/-- The request port's signals (R33). -/
structure Request where
  reqValid : Bool
  opw : Word
  a : Port
  b : Port
  m : Port
  idx : Word
  val : Word
  shamt : Word
  n : Word
  l : Vector Word 16
deriving DecidableEq, Repr

/-- The signals while the host presents nothing: REQ_VALID = 0. The other signals are then read by no rule;
0 is the model's choice for them (log entry 3). -/
def Request.idle : Request :=
  { reqValid := false, opw := 0
    a := { tag := some .float32x4, bits := 0 }
    b := { tag := some .float32x4, bits := 0 }
    m := { tag := some .float32x4, bits := 0 }
    idx := 0, val := 0, shamt := 0, n := 0
    l := Vector.replicate 16 0 }

/-- The status of a response (spec/60_exceptions.md R190). The codes 5, 6 and 7 are never produced. -/
inductive Status where
  | ok
  | indexOutOfRange
  | rangeError
  | illegalRequest
  | unsupported
deriving DecidableEq, Repr

/-- The fields of a response (R34). -/
structure Response where
  status : Status
  errInfo : Word
  rv : Port
  rs : Word
deriving DecidableEq, Repr

/-- The machine. `req` and `inputs` are what the host presents, now and next; `rspValid` and `rsp` are the response
register, the one state the VALU holds (R35, R37); `answered` and `draws` are the model's own. -/
structure State where
  /-- The request signals at the present cycle (R33). -/
  req : Request
  /-- The request signals of the cycles after it (spec/70_reset_and_hazards.md R226, log entry 3). -/
  inputs : List Request
  /-- RSP_VALID (R34, R35). -/
  rspValid : Bool
  /-- STATUS, ERR_INFO, RV and RS (R34, R35). -/
  rsp : Response
  /-- Whether a response has been written since reset, so that `rsp` may be read (R220, log entry 4). -/
  answered : Bool
  /-- The number of the next draw of `FP_NAN_RESULT` (spec/41_arithmetic.md R103, spec/20_memory.md R45, log entry 5). -/
  draws : Nat
deriving DecidableEq, Repr

/-- Why a read stops. No step faults: every request gets exactly one response (R223) and no error is fatal (R194). -/
inductive Fault where
  /-- Raised by `readFields`, so by every read, when the host reads the response fields before the first response after reset:
  "reading them before a response is a fault, not a value" (R220). Safe: nothing is claimed of the unspecified fields. -/
  | responseNotWritten
deriving DecidableEq, Repr

/-- Why the model gives no answer. -/
inductive Refusal where
  /-- For an instruction that has no meaning yet; no arm of `exec` raises it. Safe: nothing is claimed. -/
  | notModelled (mnemonic : String)
  /-- Raised by `State.answer`, so by every operation and by `step`, for a request that gets `raise Unsupported`, and by
  `readFields` where the response read has that STATUS: "A model treats STATUS = Unsupported as a refusal: the VALU gives
  the request no meaning, and no claim about its result may be proved" (R195). It carries ERR_INFO. Safe: the request has
  no next state that a claim could be about. -/
  | unsupported (errInfo : Word)
deriving DecidableEq, Repr

/-- The machine right after reset: RSP_VALID = 0 (R220), nothing presented. STATUS, ERR_INFO, RV and RS are unspecified
(R220); OK, 0, NONE and 0 are the model's choice (log entry 2), and `State.readResponse` does not let them be read. -/
def State.reset : State :=
  { req := Request.idle
    inputs := []
    rspValid := false
    rsp := { status := .ok, errInfo := 0, rv := Port.none, rs := 0 }
    answered := false
    draws := 0 }

end Sys2Proof.Machine
end

