-- ==== Sys2Proof/Machine/Lanes.lean ====
section
/-! DEFINITION. Tags, shapes and lanes of tagged values (spec/10_state.md, section 1, and R31, R32). -/

namespace Sys2Proof.Machine

/-- The lane category of a tag (R21). -/
inductive Category where
  | float
  | int
  | bool
deriving DecidableEq, Repr

/-- The category column of R21's table. -/
def category : Tag → Category
  | .float32x4 => .float
  | .int32x4 => .int
  | .int16x8 => .int
  | .int8x16 => .int
  | .bool32x4 => .bool
  | .bool16x8 => .bool
  | .bool8x16 => .bool

/-- `n(T)`, the lane count (R21). -/
def laneCount : Tag → Nat
  | .float32x4 => 4
  | .int32x4 => 4
  | .int16x8 => 8
  | .int8x16 => 16
  | .bool32x4 => 4
  | .bool16x8 => 8
  | .bool8x16 => 16

/-- `w(T)`, the lane width (R21). -/
def laneWidth : Tag → Nat
  | .float32x4 => 32
  | .int32x4 => 32
  | .int16x8 => 16
  | .int8x16 => 8
  | .bool32x4 => 32
  | .bool16x8 => 16
  | .bool8x16 => 8

/-- `booltag(T)`, the bool tag of the same lane width (R22). -/
def boolTag : Tag → Tag
  | .float32x4 => .bool32x4
  | .int32x4 => .bool32x4
  | .int16x8 => .bool16x8
  | .int8x16 => .bool8x16
  | .bool32x4 => .bool32x4
  | .bool16x8 => .bool16x8
  | .bool8x16 => .bool8x16

/-- Lane i of width w: bits [w*i + w-1 : w*i], lane 0 least significant (R23, spec/20_memory.md R42). -/
def lane (w : Nat) (v : Bits) (i : Nat) : BitVec w := v.extractLsb' (w * i) w

/-- The 128 bits whose lanes 0 .. n-1 of width w are `f 0 .. f (n-1)` (R23), all other bits 0. -/
def packLanes (w : Nat) (f : Nat → BitVec w) : Nat → Bits
  | 0 => 0
  | n + 1 => packLanes w f n ||| ((f n).setWidth 128 <<< (w * n))

/-- A tagged value: one of the seven tags and 128 bits (R20). -/
structure Vec where
  tag : Tag
  bits : Bits
deriving DecidableEq, Repr

/-- `lane(V, i)` (R23). -/
def Vec.lane (v : Vec) (i : Nat) : BitVec (laneWidth v.tag) := Machine.lane (laneWidth v.tag) v.bits i

/-- `mkvec(T, l_0 .. l_{n-1})` (spec/00_scope.md, section 5). -/
def mkVec (t : Tag) (f : Nat → BitVec (laneWidth t)) : Vec :=
  { tag := t, bits := packLanes (laneWidth t) f (laneCount t) }

/-- `mkvec(Float32x4, l_0 .. l_3)`. -/
def mkFloatVec (f : Nat → Word) : Vec := { tag := .float32x4, bits := packLanes 32 f 4 }

/-- A tagged value as it stands on a port. -/
def Vec.port (v : Vec) : Port := { tag := some v.tag, bits := v.bits }

/-- A bool lane: `ONES_w` for true, 0 for false (R24). -/
def boolLane (w : Nat) (b : Bool) : BitVec w := if b then BitVec.allOnes w else 0

/-- The bool-tagged value of T's shape whose lane i is `p i` (R24, spec/42_relational_logical.md R125). -/
def mkBoolVec (t : Tag) (p : Nat → Bool) : Vec :=
  mkVec (boolTag t) fun i => boolLane (laneWidth (boolTag t)) (p i)

/-- `lanein(T, x)`: the lane a 32-bit input sets (R31). -/
def laneIn (t : Tag) (x : Word) : BitVec (laneWidth t) :=
  match category t with
  | .float => x.setWidth (laneWidth t)
  | .int => x.setWidth (laneWidth t)
  | .bool => boolLane (laneWidth t) (x != 0)

/-- `laneout(T, l)`: the 32 bits RS returns for a lane (R32). -/
def laneOut (t : Tag) (l : BitVec (laneWidth t)) : Word :=
  match category t with
  | .float => l.setWidth 32
  | .int => l.signExtend 32
  | .bool => if l = BitVec.allOnes (laneWidth t) then 1 else 0

/-- The lowest i below n with `p i`, the position an error names (spec/60_exceptions.md R192, R193). -/
def lowest (p : Nat → Bool) (n : Nat) : Option Nat := (List.range n).find? p

/-- A lane that is neither 0 nor `ONES_w` (R24). -/
def nonCanonicalLane (w : Nat) (v : Bits) (i : Nat) : Bool :=
  lane w v i != 0 && lane w v i != BitVec.allOnes w

/-- The lowest non-canonical lane of a bool-tagged value; `none` for a canonical value or a numeric tag (R24). -/
def badBoolLane (v : Vec) : Option Nat :=
  match category v.tag with
  | .float => none
  | .int => none
  | .bool => lowest (nonCanonicalLane (laneWidth v.tag) v.bits) (laneCount v.tag)

end Sys2Proof.Machine
end

