-- ==== Sys2Proof/Machine/Float.lean ====
section
/-! DEFINITION. IEEE-754 binary32 arithmetic, rounding to nearest with ties to even and subnormals kept (spec/41_arithmetic.md R103, R104; spec/00_scope.md, section 5). Finite values are computed exactly as integers, in units of 2^-149, and rounded once at the end. -/

namespace Sys2Proof.Machine

/-- The biased exponent f[30:23]. -/
def expField (f : Word) : Nat := (f.extractLsb' 23 8).toNat

/-- The fraction f[22:0]. -/
def fracField (f : Word) : Nat := (f.extractLsb' 0 23).toNat

/-- `signbit(f)`. -/
def signBit (f : Word) : Bool := f.msb

/-- `isNaN(f)`. -/
def isNaN (f : Word) : Bool := expField f == 0xFF && fracField f != 0

/-- An infinity: exponent all ones, fraction 0. -/
def isInf (f : Word) : Bool := expField f == 0xFF && fracField f == 0

/-- `isZero(f)`: f[30:0] = 0. -/
def isZero (f : Word) : Bool := f.extractLsb' 0 31 == 0

/-- |fval(f)| in units of 2^-149. An infinity gives 2^277, above every finite value. -/
def magnitude (f : Word) : Nat :=
  if expField f = 0 then fracField f else (2 ^ 23 + fracField f) * 2 ^ (expField f - 1)

/-- `fval(f)` in units of 2^-149, for f that is not NaN. -/
def fval (f : Word) : Int := if signBit f then -(magnitude f : Int) else magnitude f

/-- +infinity without its sign bit. -/
def infPattern : Nat := 0x7F800000

/-- A binary32 pattern from its sign and its low 31 bits. -/
def mkFloat (sign : Bool) (pattern : Nat) : Word := BitVec.ofNat 32 (pattern + if sign then 2 ^ 31 else 0)

/-- Rounding the exact value num/den (den > 0), in units of 2^-149, to the low 31 bits of a binary32 pattern: to nearest,
ties to even, infinity on overflow (R104). With 2^k the spacing of binary32 values at this magnitude and q the rounded
multiple of it, the pattern is k * 2^23 + q: the carry of a q that reaches 2^24 moves the exponent up by itself. -/
def roundPattern (num den : Nat) : Nat :=
  let k := Nat.log2 (num / den) - 23
  let unit := den * 2 ^ k
  let q := num / unit
  let r := num % unit
  let rounded := if 2 * r > unit ∨ (2 * r = unit ∧ q % 2 = 1) then q + 1 else q
  Nat.min (k * 2 ^ 23 + rounded) infPattern

/-- `FP_NAN_RESULT(op, a, b)`: a quiet NaN whose sign and bits [21:0] are free (R103). -/
def nanResult (draw i : Nat) (op : FloatOp) (a b : Word) : Word :=
  mkFloat (Config.nanSign draw i op a b) (0x7FC00000 + (Config.nanPayload draw i op a b).toNat)

/-- The sum of two binary32 values, `nan` standing for its NaN result (R104). -/
def floatSum (nan a b : Word) : Word :=
  if isNaN a || isNaN b then nan
  else if isInf a && isInf b && signBit a != signBit b then nan
  else if isInf a then a
  else if isInf b then b
  else if fval a + fval b = 0 then mkFloat (signBit a && signBit b) 0
  else mkFloat (fval a + fval b < 0) (roundPattern (fval a + fval b).natAbs 1)

/-- `f_add`; the draw number and the lane choose its NaN result. -/
def fAdd (draw i : Nat) (a b : Word) : Word := floatSum (nanResult draw i .add a b) a b

/-- Flipping the sign bit (R110). -/
def fNeg (a : Word) : Word := a ^^^ 0x80000000

/-- Clearing the sign bit (R116). -/
def fAbs (a : Word) : Word := a &&& 0x7FFFFFFF

/-- `f_sub`: a - b is a + (-b). -/
def fSub (draw i : Nat) (a b : Word) : Word := floatSum (nanResult draw i .sub a b) a (fNeg b)

/-- `f_mul`. -/
def fMul (draw i : Nat) (a b : Word) : Word :=
  if isNaN a || isNaN b then nanResult draw i .mul a b
  else if (isInf a && isZero b) || (isZero a && isInf b) then nanResult draw i .mul a b
  else if isInf a || isInf b then mkFloat (signBit a != signBit b) infPattern
  else mkFloat (signBit a != signBit b) (roundPattern (magnitude a * magnitude b) (2 ^ 149))

/-- `f_div`. -/
def fDiv (draw i : Nat) (a b : Word) : Word :=
  if isNaN a || isNaN b then nanResult draw i .div a b
  else if (isZero a && isZero b) || (isInf a && isInf b) then nanResult draw i .div a b
  else if isInf a || isZero b then mkFloat (signBit a != signBit b) infPattern
  else if isInf b then mkFloat (signBit a != signBit b) 0
  else mkFloat (signBit a != signBit b) (roundPattern (magnitude a * 2 ^ 149) (magnitude b))

/-- Building the integer square root of n bit by bit, from bit k-1 down, above the root r found so far. -/
def isqrtFrom (n : Nat) : Nat → Nat → Nat
  | 0, r => r
  | k + 1, r => if (r + 2 ^ k) * (r + 2 ^ k) ≤ n then isqrtFrom n k (r + 2 ^ k) else isqrtFrom n k r

/-- The integer square root, rounded down, of any n below 2^426. -/
def isqrt (n : Nat) : Nat := isqrtFrom n 213 0

/-- `f_sqrt`. The root in units of 2^-149 is the square root of `magnitude a * 2^149`. Any nonzero root has far more than
24 bits, so a half below the next integer stands for every inexact remainder without moving it across a rounding boundary. -/
def fSqrt (draw i : Nat) (a : Word) : Word :=
  if isNaN a then nanResult draw i .sqrt a 0
  else if isZero a then a
  else if signBit a then nanResult draw i .sqrt a 0
  else if isInf a then a
  else
    let n := magnitude a * 2 ^ 149
    let root := isqrt n
    mkFloat false (roundPattern (2 * root + if root * root = n then 0 else 1) 2)

/-- `f_eq`: false with a NaN; +0 and -0 equal (spec/42_relational_logical.md R126). -/
def fEq (a b : Word) : Bool := !isNaN a && !isNaN b && fval a == fval b

/-- `f_lt`. -/
def fLt (a b : Word) : Bool := !isNaN a && !isNaN b && fval a < fval b

/-- `f_le`. -/
def fLe (a b : Word) : Bool := !isNaN a && !isNaN b && fval a ≤ fval b

/-- `CANONICAL_NAN` (R106). -/
def canonicalNaN : Word := 0x7FC00000

/-- The lane rule of MIN (R119). -/
def fMin (a b : Word) : Word :=
  if isNaN a || isNaN b then canonicalNaN
  else if fLt a b then a
  else if fLt b a then b
  else if signBit a then a else b

/-- The lane rule of MAX (R120). -/
def fMax (a b : Word) : Word :=
  if isNaN a || isNaN b then canonicalNaN
  else if fLt b a then a
  else if fLt a b then b
  else if signBit a then b else a

/-- The lane rule of MINNUM (R121). -/
def fMinNum (a b : Word) : Word :=
  if isNaN a && !isNaN b then b
  else if isNaN b && !isNaN a then a
  else fMin a b

/-- The lane rule of MAXNUM (R122). -/
def fMaxNum (a b : Word) : Word :=
  if isNaN a && !isNaN b then b
  else if isNaN b && !isNaN a then a
  else fMax a b

/-- A lane CVT converts to Int32 (spec/45_conversion.md R170): not NaN, and strictly between the Int32 bounds. -/
def convertible (a : Word) : Bool :=
  !isNaN a && decide (-2147483648 * 2 ^ 149 < fval a) && decide (fval a < 2147483647 * 2 ^ 149)

/-- Conversion to Int32, toward zero (R171). -/
def floatToInt (a : Word) : Word :=
  BitVec.ofInt 32 (if signBit a then -((magnitude a / 2 ^ 149 : Nat) : Int) else (magnitude a / 2 ^ 149 : Nat))

/-- Conversion from Int32, rounding to nearest with ties to even (R172). -/
def intToFloat (a : Word) : Word := mkFloat (a.toInt < 0) (roundPattern (a.toInt.natAbs * 2 ^ 149) 1)

end Sys2Proof.Machine
end

