-- ==== Sys2Proof/Machine/Ops.lean ====
section
/-! DEFINITION. The response primitives (spec/00_scope.md, section 5), the error response, the operations on the response register and the request port, and the host's read of a response. -/

namespace Sys2Proof.Machine

/-- The error kinds a request can raise (spec/60_exceptions.md R190) with what ERR_INFO holds (R192). -/
inductive RequestError where
  | indexOutOfRange (info : Word)
  | rangeError (info : Word)
  | illegalRequest
  | unsupported (info : Word)
deriving DecidableEq, Repr

/-- A request's result: a vector on RV or a scalar on RS (spec/10_state.md R34). -/
inductive Result where
  | vec (v : Vec)
  | scalar (x : Word)
deriving DecidableEq, Repr

/-- What an instruction's rule computes before any response field is written (spec/00_scope.md R7). -/
abbrev Reply := Except RequestError Result

/-- The STATUS code of an error (R190). -/
def errorStatus : RequestError → Status
  | .indexOutOfRange _ => .indexOutOfRange
  | .rangeError _ => .rangeError
  | .illegalRequest => .illegalRequest
  | .unsupported _ => .unsupported

/-- The ERR_INFO of an error (R192); 0 for IllegalRequest. -/
def errorInfo : RequestError → Word
  | .indexOutOfRange info => info
  | .rangeError info => info
  | .illegalRequest => 0
  | .unsupported info => info

/-- `respond_vec(V)`. -/
def respondVec (v : Vec) : Response := { status := .ok, errInfo := 0, rv := v.port, rs := 0 }

/-- `respond_scalar(s)`. -/
def respondScalar (x : Word) : Response := { status := .ok, errInfo := 0, rv := Port.none, rs := x }

/-- `raise <Error>(info)`: the error is the whole response, and no result lane is visible (R191). -/
def raise (e : RequestError) : Response :=
  { status := errorStatus e, errInfo := errorInfo e, rv := Port.none, rs := 0 }

/-- The response of a finished rule. -/
def responseOf : Reply → Response
  | .ok (.vec v) => respondVec v
  | .ok (.scalar x) => respondScalar x
  | .error e => raise e

/-- The 3-bit STATUS codes (R190). -/
def statusCode : Status → BitVec 3
  | .ok => 0
  | .indexOutOfRange => 1
  | .rangeError => 2
  | .illegalRequest => 3
  | .unsupported => 4

/-- Writing the response register when a request completes (R35). The next request's NaN results come from a new draw. -/
def State.writeResponse (s : State) (r : Response) : State :=
  { s with rspValid := true, rsp := r, answered := true, draws := s.draws + 1 }

/-- The error response as the VALU's one exception mechanism (R191, R196): it writes the response register and nothing
else, with no trap, no saved state and no change of control. There is nothing to return from (R197). -/
def State.raiseError (s : State) (e : RequestError) : State := s.writeResponse (raise e)

/-- Completing a request with what its rule computed: a result or an error response is written (R223), and Unsupported is
refused, since "the VALU gives it no meaning, so a model refuses it" (spec/30_encoding.md R55, R195, log entry 7). -/
def State.answer (s : State) : Reply → Host.Outcome State Fault Refusal
  | .ok result => .next (s.writeResponse (responseOf (.ok result)))
  | .error (.unsupported info) => .refused (.unsupported info)
  | .error e => .next (s.raiseError e)

/-- The operation word of the present request (spec/20_memory.md R48). -/
def State.operationWord (s : State) : Word := s.req.opw

/-- A cycle with REQ_VALID = 0 (spec/60_exceptions.md R206): nothing is computed and the response fields hold; RSP_VALID
was 1 "for that one cycle" only (spec/70_reset_and_hazards.md R222, log entry 6). -/
def State.idleCycle (s : State) : State := { s with rspValid := false }

/-- The host presents its next request signals; after the last, nothing (R226). -/
def State.nextInputs (s : State) : State :=
  match s.inputs with
  | [] => { s with req := Request.idle, inputs := [] }
  | r :: rest => { s with req := r, inputs := rest }

/-- A read of response fields: a fault before the first response (R220), and a refusal where STATUS is Unsupported (R195). -/
def readFields (answered : Bool) (r : Response) : Host.Outcome Response Fault Refusal :=
  if answered = false then .fault .responseNotWritten
  else if r.status = .unsupported then .refused (.unsupported r.errInfo)
  else .next r

/-- The host's read of the response register. -/
def State.readResponse (s : State) : Host.Outcome Response Fault Refusal := readFields s.answered s.rsp

/-- The VALU past a request the model refuses: it "accepts the next request" (R194), its register holding the error
response of R191, which `State.readResponse` refuses. -/
def State.passUnsupported (s : State) (info : Word) : State := (s.raiseError (.unsupported info)).nextInputs

/-- Reset applied to a running machine (R220): RSP_VALID = 0 and the response fields unspecified, so unreadable; nothing
else exists to reset. What the host presents is not the VALU's to change, and the draws go on. -/
def State.applyReset (s : State) : State :=
  { s with rspValid := State.reset.rspValid, rsp := State.reset.rsp, answered := State.reset.answered }

end Sys2Proof.Machine
end

