-- ==== Sys2Proof/Machine/Operands.lean ====
section
/-! DEFINITION. The operand forms and their checks, in the fixed order of spec/30_encoding.md R56: tags of A, B, M (R54), the count N (R54), canonical bool lanes of A, B, M (R55). -/

namespace Sys2Proof.Machine

/-- Tag sets of R54's table. -/
def anyTag (_ : Tag) : Bool := true

/-- Float32x4, Int32x4, Int16x8, Int8x16. -/
def numericTag (t : Tag) : Bool := category t != .bool

/-- Float32x4 alone. -/
def floatTag (t : Tag) : Bool := category t == .float

/-- Int32x4, Int16x8, Int8x16. -/
def intTag (t : Tag) : Bool := category t == .int

/-- Int16x8, Int8x16. -/
def saturatingTag (t : Tag) : Bool := t == .int16x8 || t == .int8x16

/-- The integer and bool tags. -/
def logicalTag (t : Tag) : Bool := category t != .float

/-- Bool32x4, Bool16x8, Bool8x16. -/
def boolOnlyTag (t : Tag) : Bool := category t == .bool

/-- Float32x4, Int32x4: the sources CVT takes. -/
def convertTag (t : Tag) : Bool := t == .float32x4 || t == .int32x4

/-- The tag check of one port (R54); tag 7 is never accepted. -/
def takePort (p : Port) (accepts : Tag → Bool) : Except RequestError Vec :=
  match p.tag with
  | none => .error .illegalRequest
  | some t => if accepts t then .ok { tag := t, bits := p.bits } else .error .illegalRequest

/-- The check of N (R54). -/
def checkCount (n : Word) (t : Tag) : Except RequestError Unit :=
  if n.toNat = laneCount t then .ok () else .error .illegalRequest

/-- The canonical-bool check of one operand (R55). -/
def checkCanonical (v : Vec) : Except RequestError Unit :=
  match badBoolLane v with
  | none => .ok ()
  | some i => .error (.unsupported (BitVec.ofNat 32 i))

/-- Operand form: A alone. -/
def Request.unary (r : Request) (accepts : Tag → Bool) : Except RequestError Vec := do
  let a ← takePort r.a accepts
  checkCanonical a
  return a

/-- Operand form: A, and B with exactly A's tag. -/
def Request.binary (r : Request) (accepts : Tag → Bool) : Except RequestError (Vec × Vec) := do
  let a ← takePort r.a accepts
  let b ← takePort r.b (· == a.tag)
  checkCanonical a
  checkCanonical b
  return (a, b)

/-- Operand form: A and B of any two tags. -/
def Request.anyPair (r : Request) : Except RequestError (Vec × Vec) := do
  let a ← takePort r.a anyTag
  let b ← takePort r.b anyTag
  checkCanonical a
  checkCanonical b
  return (a, b)

/-- Operand form of SWIZZLE: A of any tag, and N its lane count. -/
def Request.counted (r : Request) : Except RequestError Vec := do
  let a ← takePort r.a anyTag
  checkCount r.n a.tag
  checkCanonical a
  return a

/-- Operand form of SHUFFLE: A of any tag, B of the same, and N their lane count. -/
def Request.countedPair (r : Request) : Except RequestError (Vec × Vec) := do
  let a ← takePort r.a anyTag
  let b ← takePort r.b (· == a.tag)
  checkCount r.n a.tag
  checkCanonical a
  checkCanonical b
  return (a, b)

/-- Operand form of SELECT: A of any tag, B of the same, M of the matching bool tag. -/
def Request.masked (r : Request) : Except RequestError (Vec × Vec × Vec) := do
  let a ← takePort r.a anyTag
  let b ← takePort r.b (· == a.tag)
  let m ← takePort r.m (· == boolTag a.tag)
  checkCanonical a
  checkCanonical b
  checkCanonical m
  return (a, b, m)

/-- Entry L[k] of the array port (spec/10_state.md R33). Only k < 16 is ever read. -/
def Request.entry (r : Request) (k : Nat) : Word := r.l.toList.getD k 0

/-- L[k] read as an index (spec/30_encoding.md R51). -/
def Request.index (r : Request) (k : Nat) : Nat := (r.entry k).toNat

end Sys2Proof.Machine
end

