-- ==== Sys2Proof/Machine/Arithmetic.lean ====
section
/-! DEFINITION. Arithmetic (spec/41_arithmetic.md): NEG, ADD, SUB, MUL on float and integer lanes; DIV, SQRT, ABS, RCPAPPROX, RSQRTAPPROX, MIN, MAX, MINNUM, MAXNUM on Float32x4; ADDSAT, SUBSAT on Int16x8 and Int8x16. -/

namespace Sys2Proof.Machine

/-- One float operation on every lane of A (R100); it is given the lane number for its draws. -/
def mapFloat (f : Nat → Word → Word) (a : Vec) : Vec := mkFloatVec fun i => f i (lane 32 a.bits i)

/-- One float operation on every lane pair (R100). -/
def zipFloat (f : Nat → Word → Word → Word) (a b : Vec) : Vec :=
  mkFloatVec fun i => f i (lane 32 a.bits i) (lane 32 b.bits i)

/-- One integer operation on every lane of A: the exact result of the signed value, its low w bits kept (R101). -/
def mapInt (f : Int → Int) (a : Vec) : Vec := mkVec a.tag fun i => BitVec.ofInt (laneWidth a.tag) (f (a.lane i).toInt)

/-- One integer operation on every lane pair: the exact result of the signed values, its low w bits kept (R101). -/
def zipInt (f : Int → Int → Int) (a b : Vec) : Vec :=
  mkVec a.tag fun i => BitVec.ofInt (laneWidth a.tag) (f (a.lane i).toInt (lane (laneWidth a.tag) b.bits i).toInt)

/-- An operation that is float arithmetic on Float32x4 and wrapping arithmetic on the integer tags (R111 to R113). -/
def zipNumeric (f : Nat → Word → Word → Word) (g : Int → Int → Int) (a b : Vec) : Vec :=
  match category a.tag with
  | .float => zipFloat f a b
  | .int => zipInt g a b
  | .bool => zipInt g a b

/-- `clamp(x, min_s(w), max_s(w))` (R102; spec/00_scope.md, section 5). -/
def saturate (w : Nat) (x : Int) : Int :=
  if x < -(2 ^ (w - 1) : Int) then -(2 ^ (w - 1) : Int)
  else if x > 2 ^ (w - 1) - 1 then 2 ^ (w - 1) - 1
  else x

/-- NEG (R110): the sign bit flipped on float lanes, wrapping negation on integer lanes. -/
def execNeg (s : State) : Host.Outcome State Fault Refusal :=
  s.answer do
    let a ← s.req.unary numericTag
    return .vec (if floatTag a.tag then mapFloat (fun _ x => fNeg x) a else mapInt (fun x => -x) a)

/-- ADD (R111). -/
def execAdd (s : State) : Host.Outcome State Fault Refusal :=
  s.answer do
    let (a, b) ← s.req.binary numericTag
    return .vec (zipNumeric (fAdd s.draws) (fun x y => x + y) a b)

/-- SUB (R112). -/
def execSub (s : State) : Host.Outcome State Fault Refusal :=
  s.answer do
    let (a, b) ← s.req.binary numericTag
    return .vec (zipNumeric (fSub s.draws) (fun x y => x - y) a b)

/-- MUL (R113). -/
def execMul (s : State) : Host.Outcome State Fault Refusal :=
  s.answer do
    let (a, b) ← s.req.binary numericTag
    return .vec (zipNumeric (fMul s.draws) (fun x y => x * y) a b)

/-- DIV (R114). -/
def execDiv (s : State) : Host.Outcome State Fault Refusal :=
  s.answer do
    let (a, b) ← s.req.binary floatTag
    return .vec (zipFloat (fDiv s.draws) a b)

/-- SQRT (R115). -/
def execSqrt (s : State) : Host.Outcome State Fault Refusal :=
  s.answer do
    let a ← s.req.unary floatTag
    return .vec (mapFloat (fSqrt s.draws) a)

/-- ABS (R116). -/
def execAbs (s : State) : Host.Outcome State Fault Refusal :=
  s.answer do
    let a ← s.req.unary floatTag
    return .vec (mapFloat (fun _ x => fAbs x) a)

/-- RCPAPPROX (R117): each lane is `RCP_APPROX` of A's lane. -/
def execRcpApprox (s : State) : Host.Outcome State Fault Refusal :=
  s.answer do
    let a ← s.req.unary floatTag
    return .vec (mapFloat (fun _ x => Config.rcpApprox x) a)

/-- RSQRTAPPROX (R118): each lane is `RSQRT_APPROX` of A's lane. -/
def execRsqrtApprox (s : State) : Host.Outcome State Fault Refusal :=
  s.answer do
    let a ← s.req.unary floatTag
    return .vec (mapFloat (fun _ x => Config.rsqrtApprox x) a)

/-- MIN (R119). -/
def execMin (s : State) : Host.Outcome State Fault Refusal :=
  s.answer do
    let (a, b) ← s.req.binary floatTag
    return .vec (zipFloat (fun _ x y => fMin x y) a b)

/-- MAX (R120). -/
def execMax (s : State) : Host.Outcome State Fault Refusal :=
  s.answer do
    let (a, b) ← s.req.binary floatTag
    return .vec (zipFloat (fun _ x y => fMax x y) a b)

/-- MINNUM (R121). -/
def execMinNum (s : State) : Host.Outcome State Fault Refusal :=
  s.answer do
    let (a, b) ← s.req.binary floatTag
    return .vec (zipFloat (fun _ x y => fMinNum x y) a b)

/-- MAXNUM (R122). -/
def execMaxNum (s : State) : Host.Outcome State Fault Refusal :=
  s.answer do
    let (a, b) ← s.req.binary floatTag
    return .vec (zipFloat (fun _ x y => fMaxNum x y) a b)

/-- ADDSAT (R123). -/
def execAddSat (s : State) : Host.Outcome State Fault Refusal :=
  s.answer do
    let (a, b) ← s.req.binary saturatingTag
    return .vec (zipInt (fun x y => saturate (laneWidth a.tag) (x + y)) a b)

/-- SUBSAT (R124). -/
def execSubSat (s : State) : Host.Outcome State Fault Refusal :=
  s.answer do
    let (a, b) ← s.req.binary saturatingTag
    return .vec (zipInt (fun x y => saturate (laneWidth a.tag) (x - y)) a b)

end Sys2Proof.Machine
end

