-- ==== Sys2Proof/Machine/Conversion.lean ====
section
/-! DEFINITION. Casts (spec/45_conversion.md): CVT and FROMBITS. -/

namespace Sys2Proof.Machine

/-- CVT from Float32x4 (R175): RangeError with the lowest lane that is not convertible, else every lane toward zero. -/
def convertToInt (a : Vec) : Reply :=
  match lowest (fun i => !convertible (lane 32 a.bits i)) 4 with
  | some i => .error (.rangeError (BitVec.ofNat 32 i))
  | none => .ok (.vec (mkVec .int32x4 fun i => floatToInt (lane 32 a.bits i)))

/-- CVT from Int32x4 (R175), which never fails. -/
def convertToFloat (a : Vec) : Reply := .ok (.vec (mkFloatVec fun i => intToFloat (lane 32 a.bits i)))

/-- CVT (R175). Any pairing of A's tag with TT but the two named is IllegalRequest (R54). -/
def execCvt (tt : TagField) (s : State) : Host.Outcome State Fault Refusal :=
  s.answer do
    let a ← s.req.unary convertTag
    match a.tag, tt with
    | .float32x4, some .int32x4 => convertToInt a
    | .int32x4, some .float32x4 => convertToFloat a
    | _, _ => .error .illegalRequest

/-- FROMBITS (R177): the same 128 bits under TT; Unsupported where TT is a bool tag and the view is not canonical.
TT = 7 is an illegal word (R53). -/
def execFromBits (tt : TagField) (s : State) : Host.Outcome State Fault Refusal :=
  s.answer <|
    match tt with
    | none => .error .illegalRequest
    | some t => do
      let a ← s.req.unary anyTag
      checkCanonical { tag := t, bits := a.bits }
      return .vec { tag := t, bits := a.bits }

end Sys2Proof.Machine
end

