-- ==== Sys2Proof/Machine/LaneAccess.lean ====
section
/-! DEFINITION. Lane access (spec/40_lane_access.md): CONSTRUCT, EXTRACT_LANE, REPLACE_LANE. -/

namespace Sys2Proof.Machine

/-- CONSTRUCT.T (R80): a value of tag T from the array's first n(T) entries. TT = 7 is an illegal word (R53). -/
def execConstruct (tt : TagField) (s : State) : Host.Outcome State Fault Refusal :=
  s.answer <|
    match tt with
    | none => .error .illegalRequest
    | some t => do
      checkCount s.req.n t
      return .vec (mkVec t fun k => laneIn t (s.req.entry k))

/-- The lane index check of R81 and R82: IDX below the lane count, else IndexOutOfRange with IDX as presented (R192). -/
def checkLaneIndex (idx : Word) (t : Tag) : Except RequestError Nat :=
  if idx.toNat < laneCount t then .ok idx.toNat else .error (.indexOutOfRange idx)

/-- EXTRACT_LANE (R81): lane IDX of A on RS. -/
def execExtractLane (s : State) : Host.Outcome State Fault Refusal :=
  s.answer do
    let a ← s.req.unary anyTag
    let i ← checkLaneIndex s.req.idx a.tag
    return .scalar (laneOut a.tag (a.lane i))

/-- REPLACE_LANE (R82): A with lane IDX set from VAL. -/
def execReplaceLane (s : State) : Host.Outcome State Fault Refusal :=
  s.answer do
    let a ← s.req.unary anyTag
    let i ← checkLaneIndex s.req.idx a.tag
    return .vec (mkVec a.tag fun k => if k = i then laneIn a.tag s.req.val else a.lane k)

end Sys2Proof.Machine
end

