-- ==== Sys2Proof/Machine/Logical.lean ====
section
/-! DEFINITION. Logical operations on the 128 bits (spec/42_relational_logical.md, section 3, R127): AND, OR, XOR, NOT on integer and bool tags. -/

namespace Sys2Proof.Machine

/-- AND (R136). -/
def execAnd (s : State) : Host.Outcome State Fault Refusal :=
  s.answer do
    let (a, b) ← s.req.binary logicalTag
    return .vec { tag := a.tag, bits := a.bits &&& b.bits }

/-- OR (R137). -/
def execOr (s : State) : Host.Outcome State Fault Refusal :=
  s.answer do
    let (a, b) ← s.req.binary logicalTag
    return .vec { tag := a.tag, bits := a.bits ||| b.bits }

/-- XOR (R138). -/
def execXor (s : State) : Host.Outcome State Fault Refusal :=
  s.answer do
    let (a, b) ← s.req.binary logicalTag
    return .vec { tag := a.tag, bits := a.bits ^^^ b.bits }

/-- NOT (R139). -/
def execNot (s : State) : Host.Outcome State Fault Refusal :=
  s.answer do
    let a ← s.req.unary logicalTag
    return .vec { tag := a.tag, bits := ~~~a.bits }

end Sys2Proof.Machine
end

