-- ==== Sys2Proof/Machine/Permute.lean ====
section
/-! DEFINITION. The permute engine and select (spec/44_permute_select.md): SWIZZLE, SHUFFLE, SELECT. -/

namespace Sys2Proof.Machine

/-- The index check of R150: every index below the bound, else IndexOutOfRange with the lowest bad output position. -/
def checkIndices (r : Request) (n bound : Nat) : Except RequestError Unit :=
  match lowest (fun i => bound ≤ r.index i) n with
  | none => .ok ()
  | some i => .error (.indexOutOfRange (BitVec.ofNat 32 i))

/-- SWIZZLE (R160). -/
def execSwizzle (s : State) : Host.Outcome State Fault Refusal :=
  s.answer do
    let a ← s.req.counted
    checkIndices s.req (laneCount a.tag) (laneCount a.tag)
    return .vec (mkVec a.tag fun i => a.lane (s.req.index i))

/-- SHUFFLE (R161). -/
def execShuffle (s : State) : Host.Outcome State Fault Refusal :=
  s.answer do
    let (a, b) ← s.req.countedPair
    checkIndices s.req (laneCount a.tag) (2 * laneCount a.tag)
    return .vec (mkVec a.tag fun i =>
      if s.req.index i < laneCount a.tag then a.lane (s.req.index i)
      else lane (laneWidth a.tag) b.bits (s.req.index i - laneCount a.tag))

/-- SELECT (R162). -/
def execSelect (s : State) : Host.Outcome State Fault Refusal :=
  s.answer do
    let (a, b, m) ← s.req.masked
    return .vec (mkVec a.tag fun i =>
      if lane (laneWidth a.tag) m.bits i = BitVec.allOnes (laneWidth a.tag) then a.lane i
      else lane (laneWidth a.tag) b.bits i)

end Sys2Proof.Machine
end

