-- ==== Sys2Proof/Machine/Flags.lean ====
section
/-! DEFINITION. Boolean outcomes. The VALU has no flags and keeps no IEEE-754 exception flags (spec/10_state.md R29): a boolean leaves it only as a bool-tagged RV or as RS, so this file holds the one computation of each. -/

namespace Sys2Proof.Machine

/-- A boolean on RS: 1 or 0 (spec/10_state.md R34, spec/46_equality_reduction.md). -/
def boolScalar (b : Bool) : Word := if b then 1 else 0

/-- The three columns of R126's table (spec/42_relational_logical.md): how a comparator reads float, integer and bool lanes. -/
structure Comparison where
  onFloat : Word → Word → Bool
  onInt : Int → Int → Bool
  onBool : Bool → Bool

/-- A comparator on lane i of A and B (R126). On a bool tag it is given whether the lane bits are equal. -/
def compareLane (c : Comparison) (a b : Vec) (i : Nat) : Bool :=
  match category a.tag with
  | .float => c.onFloat (lane 32 a.bits i) (lane 32 b.bits i)
  | .int => c.onInt (lane (laneWidth a.tag) a.bits i).toInt (lane (laneWidth a.tag) b.bits i).toInt
  | .bool => c.onBool (lane (laneWidth a.tag) a.bits i == lane (laneWidth a.tag) b.bits i)

/-- A comparator on all lanes: a bool vector of A's shape (R125). -/
def compareVec (c : Comparison) (a b : Vec) : Vec := mkBoolVec a.tag (compareLane c a b)

end Sys2Proof.Machine
end

