-- ==== Sys2Proof/Machine/Reduction.lean ====
section
/-! DEFINITION. Equality and reductions (spec/46_equality_reduction.md): BITEQ, SAMEVALUE, SAMEVALUEZERO, ANYTRUE, ALLTRUE. -/

namespace Sys2Proof.Machine

/-- Two float lanes are the same value: bit for bit, or both NaN (R181). -/
def sameFloat (a b : Word) : Bool := (isNaN a && isNaN b) || a == b

/-- `sameFloat` with +0 and -0 equal (R182). -/
def sameFloatZero (a b : Word) : Bool := sameFloat a b || (isZero a && isZero b)

/-- The common form of R181 and R182: equal tags, then `same` on every float lane pair, or equal bits on other tags. -/
def sameVec (same : Word → Word → Bool) (a b : Vec) : Bool :=
  a.tag == b.tag &&
    match category a.tag with
    | .float => (List.range 4).all fun i => same (lane 32 a.bits i) (lane 32 b.bits i)
    | .int => a.bits == b.bits
    | .bool => a.bits == b.bits

/-- Whether lane i of a bool value is true (R183). -/
def laneTrue (a : Vec) (i : Nat) : Bool := a.lane i == BitVec.allOnes (laneWidth a.tag)

/-- BITEQ (R180): the bits alone; the tags are not compared (spec/90_conflicts.md C2). -/
def execBitEq (s : State) : Host.Outcome State Fault Refusal :=
  s.answer do
    let (a, b) ← s.req.anyPair
    return .scalar (boolScalar (a.bits == b.bits))

/-- SAMEVALUE (R181). -/
def execSameValue (s : State) : Host.Outcome State Fault Refusal :=
  s.answer do
    let (a, b) ← s.req.anyPair
    return .scalar (boolScalar (sameVec sameFloat a b))

/-- SAMEVALUEZERO (R182). -/
def execSameValueZero (s : State) : Host.Outcome State Fault Refusal :=
  s.answer do
    let (a, b) ← s.req.anyPair
    return .scalar (boolScalar (sameVec sameFloatZero a b))

/-- ANYTRUE (R183). -/
def execAnyTrue (s : State) : Host.Outcome State Fault Refusal :=
  s.answer do
    let a ← s.req.unary boolOnlyTag
    return .scalar (boolScalar ((List.range (laneCount a.tag)).any (laneTrue a)))

/-- ALLTRUE (R184). -/
def execAllTrue (s : State) : Host.Outcome State Fault Refusal :=
  s.answer do
    let a ← s.req.unary boolOnlyTag
    return .scalar (boolScalar ((List.range (laneCount a.tag)).all (laneTrue a)))

end Sys2Proof.Machine
end

