-- ==== Sys2Proof/Machine/Relational.lean ====
section
/-! DEFINITION. Comparators (spec/42_relational_logical.md, section 2): EQ, NE on every tag; LT, LE, GT, GE on the numeric tags. Each is one row of R126's table. -/

namespace Sys2Proof.Machine

/-- EQ's row of R126. -/
def isEq : Comparison := { onFloat := fEq, onInt := fun x y => x == y, onBool := fun same => same }

/-- NE's row of R126. -/
def isNe : Comparison := { onFloat := fun a b => !fEq a b, onInt := fun x y => x != y, onBool := fun same => !same }

/-- LT's row of R126. The bool column reads "not accepted": R54 refuses a bool tag first. -/
def isLt : Comparison := { onFloat := fLt, onInt := fun x y => x < y, onBool := fun _ => false }

/-- LE's row of R126. -/
def isLe : Comparison := { onFloat := fLe, onInt := fun x y => x ≤ y, onBool := fun _ => false }

/-- GT's row of R126. -/
def isGt : Comparison := { onFloat := fun a b => fLt b a, onInt := fun x y => x > y, onBool := fun _ => false }

/-- GE's row of R126. -/
def isGe : Comparison := { onFloat := fun a b => fLe b a, onInt := fun x y => x ≥ y, onBool := fun _ => false }

/-- A comparator's reply (R125): the bool vector of A's shape. -/
def compareReply (r : Request) (accepts : Tag → Bool) (c : Comparison) : Reply := do
  let (a, b) ← r.binary accepts
  return .vec (compareVec c a b)

/-- EQ (R130). -/
def execEq (s : State) : Host.Outcome State Fault Refusal := s.answer (compareReply s.req anyTag isEq)

/-- NE (R131). -/
def execNe (s : State) : Host.Outcome State Fault Refusal := s.answer (compareReply s.req anyTag isNe)

/-- LT (R132). -/
def execLt (s : State) : Host.Outcome State Fault Refusal := s.answer (compareReply s.req numericTag isLt)

/-- LE (R133). -/
def execLe (s : State) : Host.Outcome State Fault Refusal := s.answer (compareReply s.req numericTag isLe)

/-- GT (R134). -/
def execGt (s : State) : Host.Outcome State Fault Refusal := s.answer (compareReply s.req numericTag isGt)

/-- GE (R135). -/
def execGe (s : State) : Host.Outcome State Fault Refusal := s.answer (compareReply s.req numericTag isGe)

end Sys2Proof.Machine
end

