-- ==== Sys2Proof/Machine/Shift.lean ====
section
/-! DEFINITION. The shift engine (spec/43_shift.md): SHL, SHRL, SHRA on integer lanes, one amount for every lane. -/

namespace Sys2Proof.Machine

/-- The shift amount s = uint(SHAMT) (R140). -/
def Request.shiftAmount (r : Request) : Nat := r.shamt.toNat

/-- SHL's lane rule (R141). -/
def shiftLeftLane (w s : Nat) (a : BitVec w) : BitVec w := if s ≥ w then 0 else BitVec.ofNat w (a.toNat * 2 ^ s)

/-- SHRL's lane rule (R142). -/
def shiftRightLane (w s : Nat) (a : BitVec w) : BitVec w := if s ≥ w then 0 else BitVec.ofNat w (a.toNat / 2 ^ s)

/-- SHRA's lane rule (R143): the amount clamped to w - 1. The divisor is positive, so `/` on Int is the floor. -/
def shiftArithLane (w s : Nat) (a : BitVec w) : BitVec w := BitVec.ofInt w (a.toInt / 2 ^ Nat.min s (w - 1))

/-- SHL (R141). -/
def execShl (s : State) : Host.Outcome State Fault Refusal :=
  s.answer do
    let a ← s.req.unary intTag
    return .vec (mkVec a.tag fun i => shiftLeftLane (laneWidth a.tag) s.req.shiftAmount (a.lane i))

/-- SHRL (R142). -/
def execShrl (s : State) : Host.Outcome State Fault Refusal :=
  s.answer do
    let a ← s.req.unary intTag
    return .vec (mkVec a.tag fun i => shiftRightLane (laneWidth a.tag) s.req.shiftAmount (a.lane i))

/-- SHRA (R143). -/
def execShra (s : State) : Host.Outcome State Fault Refusal :=
  s.answer do
    let a ← s.req.unary intTag
    return .vec (mkVec a.tag fun i => shiftArithLane (laneWidth a.tag) s.req.shiftAmount (a.lane i))

end Sys2Proof.Machine
end

