-- ==== Sys2Proof/Machine/Dispatch.lean ====
section
/-! DEFINITION. One arm per operation of spec/30_encoding.md R52. -/

namespace Sys2Proof.Machine

def exec (i : Instr) (s : State) : Host.Outcome State Fault Refusal :=
  match i with
  | .construct tt => Sys2Proof.Machine.execConstruct tt s
  | .extractLane => Sys2Proof.Machine.execExtractLane s
  | .replaceLane => Sys2Proof.Machine.execReplaceLane s
  | .neg => Sys2Proof.Machine.execNeg s
  | .add => Sys2Proof.Machine.execAdd s
  | .sub => Sys2Proof.Machine.execSub s
  | .mul => Sys2Proof.Machine.execMul s
  | .div => Sys2Proof.Machine.execDiv s
  | .sqrt => Sys2Proof.Machine.execSqrt s
  | .abs => Sys2Proof.Machine.execAbs s
  | .rcpApprox => Sys2Proof.Machine.execRcpApprox s
  | .rsqrtApprox => Sys2Proof.Machine.execRsqrtApprox s
  | .min => Sys2Proof.Machine.execMin s
  | .max => Sys2Proof.Machine.execMax s
  | .minNum => Sys2Proof.Machine.execMinNum s
  | .maxNum => Sys2Proof.Machine.execMaxNum s
  | .addSat => Sys2Proof.Machine.execAddSat s
  | .subSat => Sys2Proof.Machine.execSubSat s
  | .eq => Sys2Proof.Machine.execEq s
  | .ne => Sys2Proof.Machine.execNe s
  | .lt => Sys2Proof.Machine.execLt s
  | .le => Sys2Proof.Machine.execLe s
  | .gt => Sys2Proof.Machine.execGt s
  | .ge => Sys2Proof.Machine.execGe s
  | .and => Sys2Proof.Machine.execAnd s
  | .or => Sys2Proof.Machine.execOr s
  | .xor => Sys2Proof.Machine.execXor s
  | .not => Sys2Proof.Machine.execNot s
  | .shl => Sys2Proof.Machine.execShl s
  | .shrl => Sys2Proof.Machine.execShrl s
  | .shra => Sys2Proof.Machine.execShra s
  | .swizzle => Sys2Proof.Machine.execSwizzle s
  | .shuffle => Sys2Proof.Machine.execShuffle s
  | .select => Sys2Proof.Machine.execSelect s
  | .cvt tt => Sys2Proof.Machine.execCvt tt s
  | .fromBits tt => Sys2Proof.Machine.execFromBits tt s
  | .bitEq => Sys2Proof.Machine.execBitEq s
  | .sameValue => Sys2Proof.Machine.execSameValue s
  | .sameValueZero => Sys2Proof.Machine.execSameValueZero s
  | .anyTrue => Sys2Proof.Machine.execAnyTrue s
  | .allTrue => Sys2Proof.Machine.execAllTrue s

end Sys2Proof.Machine
end

