-- ==== Sys2Proof/Machine/Respond.lean ====
section
/-! DEFINITION. The present request's way from its operation word to the instruction it runs (spec/30_encoding.md R53, R56), and the end of a cycle. -/

namespace Sys2Proof.Machine

/-- The response to the present request: the decoded operation, or IllegalRequest(0) for an illegal word (spec/30_encoding.md R53). -/
def respond (s : State) : Host.Outcome State Fault Refusal :=
  match decode s.operationWord with
  | .ok i => exec i s
  | .error _ => .next (s.raiseError .illegalRequest)

/-- The end of a cycle: the host presents its next request signals. -/
def endCycle : Host.Outcome State Fault Refusal → Host.Outcome State Fault Refusal
  | .next t => .next t.nextInputs
  | .fault f => .fault f
  | .refused r => .refused r

end Sys2Proof.Machine
end

