-- ==== Sys2Proof/Machine/Step.lean ====
section
/-! DEFINITION. One step: one cycle of the request port, from request to response as one atomic step (spec/70_reset_and_hazards.md R223). -/

namespace Sys2Proof.Machine

/-- One cycle: with REQ_VALID = 1 the request is taken and answered, with REQ_VALID = 0 nothing is (R206); then the host
presents its next signals. -/
def step (s : State) : Host.Outcome State Fault Refusal :=
  if s.req.reqValid then endCycle (respond s) else endCycle (.next s.idleCycle)

/-- s with an operation word presented as the present request, its bits numbered as spec/opcode_table.json numbers them.
The VALU fetches nothing (spec/20_memory.md R48): the word is taken from OPW with the request, so REQ_VALID and OPW are all
that is set. -/
def State.withFetchWord (s : State) (nbits w : Nat) : State :=
  { s with req := { s.req with reqValid := true, opw := BitVec.ofNat 32 (w % 2 ^ nbits) } }

end Sys2Proof.Machine
end

