-- ==== Sys2Proof/Machine/Run.lean ====
section
/-! DEFINITION. Runs (spec/70_reset_and_hazards.md R226): the machine from one request to the next, refused ones included, what the host reads after each, and the end state of a run. -/

namespace Sys2Proof.Machine

/-- One cycle as the host goes through it: a request that the model refuses as Unsupported is passed, since no error is
fatal (spec/60_exceptions.md R194); what the host then reads is the refusal. -/
def afterCycle (s : State) : Host.Outcome State Fault Refusal :=
  match step s with
  | .next t => .next t
  | .refused (.unsupported info) => .next (s.passUnsupported info)
  | .refused r => .refused r
  | .fault f => .fault f

/-- The host presents a sequence of request signals, one a cycle, starting now. -/
def State.present (s : State) (rs : List Request) : State := State.nextInputs { s with inputs := rs }

/-- What the host reads over k cycles, in order: one outcome for each cycle with RSP_VALID = 1. -/
def outcomesOf : Nat → State → List (Host.Outcome Response Fault Refusal)
  | 0, _ => []
  | k + 1, s =>
    match afterCycle s with
    | .next t => (if t.rspValid then [t.readResponse] else []) ++ outcomesOf k t
    | .fault f => [.fault f]
    | .refused r => [.refused r]

/-- A list of responses, where all are; else the first fault or refusal: "Unsupported ties the claim to every value of the
draw or refuses it" (R226). -/
def allResponses : List (Host.Outcome Response Fault Refusal) → Host.Outcome (List Response) Fault Refusal
  | [] => .next []
  | .fault f :: _ => .fault f
  | .refused r :: _ => .refused r
  | .next r :: rest =>
    match allResponses rest with
    | .next responses => .next (r :: responses)
    | .fault f => .fault f
    | .refused r => .refused r

/-- The end state of a run: "the list of its responses in order" (R226), refused where one of them is Unsupported. -/
def State.runEnd (s : State) (rs : List Request) : Host.Outcome (List Response) Fault Refusal :=
  allResponses (outcomesOf rs.length (s.present rs))

/-- What the host reads after one request, as a function of the request and the number of its draw alone
(spec/00_scope.md R1). -/
def answerTo (r : Request) (draw : Nat) : Host.Outcome Response Fault Refusal :=
  match afterCycle { State.reset with req := { r with reqValid := true }, draws := draw } with
  | .next t => t.readResponse
  | .fault f => .fault f
  | .refused e => .refused e

end Sys2Proof.Machine
end

