-- ==== Sys2Proof/Machine/Clock.lean ====
section
/-! DEFINITION. The clocked view of the request port (spec/70_reset_and_hazards.md R222): a response reaches the response register `LATENCY` cycles after its request is taken. `step` needs none of it (R223). -/

namespace Sys2Proof.Machine

/-- RSP_VALID and the response fields at one cycle, with whether they have been written since reset (log entry 4). -/
structure Output where
  rspValid : Bool
  answered : Bool
  rsp : Response
deriving DecidableEq, Repr

/-- What the response register shows in a state. -/
def State.output (s : State) : Output := { rspValid := s.rspValid, answered := s.answered, rsp := s.rsp }

/-- The host's read of them, under the rules of every read (R220, spec/60_exceptions.md R195). -/
def Output.readResponse (o : Output) : Host.Outcome Response Fault Refusal := readFields o.answered o.rsp

/-- The VALU cycle by cycle: the machine that takes the requests, the register contents on their way (oldest first), and
the response register the host sees. -/
structure Clocked where
  front : State
  onTheWay : List Output
  visible : Output
deriving DecidableEq, Repr

/-- A clocked VALU of a given latency in state s, whose register has shown s's contents for that long. -/
def Clocked.start (latency : Nat) (s : State) : Clocked :=
  { front := s, onTheWay := List.replicate latency s.output, visible := s.output }

/-- The clocked VALU right after reset, at its own latency (R220, spec/00_scope.md R5). -/
def Clocked.reset : Clocked := Clocked.start Config.latency State.reset

/-- One rising clock edge: the present request is taken, and the oldest contents on their way reach the register. A request
refused as Unsupported is passed, and the refusal stands at the read of its response. -/
def Clocked.tick (c : Clocked) : Host.Outcome Clocked Fault Refusal :=
  match afterCycle c.front with
  | .next t =>
    let queue := c.onTheWay ++ [t.output]
    .next { front := t, onTheWay := queue.tail, visible := queue.headD c.visible }
  | .fault f => .fault f
  | .refused r => .refused r

/-- k rising clock edges. -/
def Clocked.ticks : Nat → Clocked → Host.Outcome Clocked Fault Refusal
  | 0, c => .next c
  | k + 1, c =>
    match c.tick with
    | .next d => Clocked.ticks k d
    | .fault f => .fault f
    | .refused r => .refused r

end Sys2Proof.Machine
end

