-- ==== Sys2Proof/Machine/Text.lean ====
section
/-! DEFINITION. The textual form of a request and the ports its operands go to (spec/30_encoding.md R57). -/

namespace Sys2Proof.Machine

/-- A scalar in the text: an integer, a `0x` bit pattern, or a bool. -/
inductive ScalarText where
  | int (x : Int)
  | pattern (x : Word)
  | bool (b : Bool)
deriving DecidableEq, Repr

/-- Whether a scalar fits its 32-bit port, an integer unsigned or in two's complement. The spec does not say what a text
integer that does not fit stands for, such as index 4294967296; that it is no text of a request is the model's choice
(log entry 16), beside "indices wider than 32 bits cannot be presented" (spec/92_eei_decisions.md D22). -/
def scalarFits : ScalarText → Bool
  | .int x => decide (-2 ^ 31 ≤ x ∧ x < 2 ^ 32)
  | .pattern _ => true
  | .bool _ => true

/-- The 32 bits a scalar puts on its port; a bool lane is 1 or 0. An integer that does not fit (`scalarFits`) is in no
request's text: `requestOfText` gives none for it (log entry 16). -/
def scalarWord : ScalarText → Word
  | .int x => BitVec.ofInt 32 x
  | .pattern x => x
  | .bool b => if b then 1 else 0

/-- The operands of a request as its text lists them. A vector is a value the host holds, as it stands on a port. -/
inductive OperandText where
  | lanes (entries : List ScalarText)
  | lane (v : Port) (i : ScalarText)
  | laneValue (v : Port) (i x : ScalarText)
  | one (a : Port)
  | two (a b : Port)
  | amount (a : Port) (s : ScalarText)
  | indices (a : Port) (entries : List ScalarText)
  | indicesPair (a b : Port) (entries : List ScalarText)
  | mask (m a b : Port)
deriving DecidableEq, Repr

/-- Whether a list of operands has the form R57's table gives the operation. TT is written as a tag name, so an operation
with a TT and no tag has no text. The array port holds at most 16 entries (R33). -/
def fitsText : Instr → OperandText → Bool
  | .construct (some _), .lanes entries => entries.length ≤ 16
  | .extractLane, .lane _ _ => true
  | .replaceLane, .laneValue _ _ _ => true
  | .neg, .one _ => true
  | .sqrt, .one _ => true
  | .abs, .one _ => true
  | .rcpApprox, .one _ => true
  | .rsqrtApprox, .one _ => true
  | .not, .one _ => true
  | .anyTrue, .one _ => true
  | .allTrue, .one _ => true
  | .cvt (some _), .one _ => true
  | .fromBits (some _), .one _ => true
  | .add, .two _ _ => true
  | .sub, .two _ _ => true
  | .mul, .two _ _ => true
  | .div, .two _ _ => true
  | .min, .two _ _ => true
  | .max, .two _ _ => true
  | .minNum, .two _ _ => true
  | .maxNum, .two _ _ => true
  | .addSat, .two _ _ => true
  | .subSat, .two _ _ => true
  | .eq, .two _ _ => true
  | .ne, .two _ _ => true
  | .lt, .two _ _ => true
  | .le, .two _ _ => true
  | .gt, .two _ _ => true
  | .ge, .two _ _ => true
  | .and, .two _ _ => true
  | .or, .two _ _ => true
  | .xor, .two _ _ => true
  | .bitEq, .two _ _ => true
  | .sameValue, .two _ _ => true
  | .sameValueZero, .two _ _ => true
  | .shl, .amount _ _ => true
  | .shrl, .amount _ _ => true
  | .shra, .amount _ _ => true
  | .swizzle, .indices _ entries => entries.length ≤ 16
  | .shuffle, .indicesPair _ _ entries => entries.length ≤ 16
  | .select, .mask _ _ _ => true
  | _, _ => false

/-- The scalars a list of operands holds. -/
def OperandText.scalars : OperandText → List ScalarText
  | .lanes entries => entries
  | .lane _ i => [i]
  | .laneValue _ i x => [i, x]
  | .one _ => []
  | .two _ _ => []
  | .amount _ s => [s]
  | .indices _ entries => entries
  | .indicesPair _ _ entries => entries
  | .mask _ _ _ => []

/-- The array port's 16 entries from a list, 0 past its end. -/
def entryPort (entries : List ScalarText) : Vector Word 16 :=
  Vector.ofFn fun k => ((entries.map scalarWord)[k.val]?).getD 0

/-- The ports a list of operands goes to (R57's table); the ports it does not name hold what `r` holds. -/
def placeOperands (r : Request) : OperandText → Request
  | .lanes entries => { r with n := BitVec.ofNat 32 entries.length, l := entryPort entries }
  | .lane v i => { r with a := v, idx := scalarWord i }
  | .laneValue v i x => { r with a := v, idx := scalarWord i, val := scalarWord x }
  | .one a => { r with a := a }
  | .two a b => { r with a := a, b := b }
  | .amount a s => { r with a := a, shamt := scalarWord s }
  | .indices a entries => { r with a := a, n := BitVec.ofNat 32 entries.length, l := entryPort entries }
  | .indicesPair a b entries =>
    { r with a := a, b := b, n := BitVec.ofNat 32 entries.length, l := entryPort entries }
  | .mask m a b => { r with m := m, a := a, b := b }

/-- The request a text stands for, `none` where its operands are not in the operation's form or a scalar does not fit its
port. -/
def requestOfText (i : Instr) (o : OperandText) : Option Request :=
  if fitsText i o && o.scalars.all scalarFits then
    some (placeOperands { Request.idle with reqValid := true, opw := encode i } o)
  else none

end Sys2Proof.Machine
end

