-- ==== Sys2Proof/Safety.lean ====
section
/-! DEFINITION. The terms claims about the VALU are stated in: legal responses and the machine's invariant, what it is for an instruction to answer, R54's table of accepted operands and R33's table of used ports, correct rounding, and the responses a claim may rest on. -/

namespace Sys2Proof.Machine

/-! Responses and the invariant -/

/-- Every lane of a bool-tagged value is 0 or `ONES_w` (spec/10_state.md R24). -/
abbrev Vec.Canonical (v : Vec) : Prop :=
  category v.tag = .bool →
    ∀ i < laneCount v.tag, v.lane i = 0 ∨ v.lane i = BitVec.allOnes (laneWidth v.tag)

/-- A response carries a canonical vector on RV, or a scalar on RS, or an error, and the fields it does not use hold the
fixed values RV = NONE, RS = 0, ERR_INFO = 0 (R24, R34, spec/60_exceptions.md R191). -/
def Response.Legal (r : Response) : Prop :=
  (r.status = .ok ∧ r.errInfo = 0 ∧ r.rs = 0 ∧ ∃ v : Vec, r.rv = v.port ∧ v.Canonical) ∨
  (r.status = .ok ∧ r.errInfo = 0 ∧ r.rv = Port.none) ∨
  (r.status ≠ .ok ∧ r.rv = Port.none ∧ r.rs = 0)

/-- The invariant every step keeps: the response register holds a legal response, and RSP_VALID is 1 only once a
response has been written. -/
def State.Inv (s : State) : Prop := s.rsp.Legal ∧ (s.rspValid = true → s.answered = true)

/-! Answers -/

/-- The instruction completes with response r: RSP_VALID and the response fields are written and nothing else of the
VALU or of what the host presents is changed (R25, R35, spec/20_memory.md R45). `answered` is the model's own bit (log entry 4), and where its
draw counter goes is left open (log entry 5). -/
def Answers (i : Instr) (s : State) (r : Response) : Prop :=
  ∃ d, exec i s = .next { s with rspValid := true, rsp := r, answered := true, draws := d }

/-- The instruction completes with a vector of tag t whose every lane k is related by P. -/
def AnswersVec (i : Instr) (s : State) (t : Tag) (P : Nat → BitVec (laneWidth t) → Prop) : Prop :=
  ∃ bits : Bits,
    Answers i s { status := .ok, errInfo := 0, rv := { tag := some t, bits := bits }, rs := 0 } ∧
    ∀ k < laneCount t, P k (lane (laneWidth t) bits k)

/-- `AnswersVec` for Float32x4, its lanes read as words. -/
def AnswersFloats (i : Instr) (s : State) (P : Nat → Word → Prop) : Prop :=
  ∃ bits : Bits,
    Answers i s { status := .ok, errInfo := 0, rv := { tag := some .float32x4, bits := bits }, rs := 0 } ∧
    ∀ k < 4, P k (lane 32 bits k)

/-- The instruction completes with a scalar on RS. -/
def AnswersScalar (i : Instr) (s : State) (x : Word) : Prop :=
  Answers i s { status := .ok, errInfo := 0, rv := Port.none, rs := x }

/-- The instruction completes with an error response. -/
def AnswersError (i : Instr) (s : State) (status : Status) (info : Word) : Prop :=
  Answers i s { status := status, errInfo := info, rv := Port.none, rs := 0 }

/-! R54's table -/

/-- All seven tags. -/
def allTags : List Tag := [.float32x4, .int32x4, .int16x8, .int8x16, .bool32x4, .bool16x8, .bool8x16]

/-- A row whose only vector operand is A, with one of the tags ts. -/
def OnA (ts : List Tag) (r : Request) (vs : List Vec) : Prop :=
  ∃ a : Vec, r.a = a.port ∧ a.tag ∈ ts ∧ vs = [a]

/-- A row with operands A, of one of the tags ts, and B, "same as A". -/
def OnPair (ts : List Tag) (r : Request) (vs : List Vec) : Prop :=
  ∃ a b : Vec, r.a = a.port ∧ a.tag ∈ ts ∧ r.b = b.port ∧ b.tag = a.tag ∧ vs = [a, b]

/-- A row with operands A and B of any two tags. -/
def OnAnyPair (r : Request) (vs : List Vec) : Prop :=
  ∃ a b : Vec, r.a = a.port ∧ r.b = b.port ∧ vs = [a, b]

/-- R54's table (spec/30_encoding.md): the operands an operation accepts, in the order A, B, M, with N where it counts. -/
def Accepted : Instr → Request → List Vec → Prop
  | .construct tt, r, vs => ∃ t, tt = some t ∧ r.n.toNat = laneCount t ∧ vs = []
  | .extractLane, r, vs => OnA allTags r vs
  | .replaceLane, r, vs => OnA allTags r vs
  | .neg, r, vs => OnA [.float32x4, .int32x4, .int16x8, .int8x16] r vs
  | .add, r, vs => OnPair [.float32x4, .int32x4, .int16x8, .int8x16] r vs
  | .sub, r, vs => OnPair [.float32x4, .int32x4, .int16x8, .int8x16] r vs
  | .mul, r, vs => OnPair [.float32x4, .int32x4, .int16x8, .int8x16] r vs
  | .div, r, vs => OnPair [.float32x4] r vs
  | .sqrt, r, vs => OnA [.float32x4] r vs
  | .abs, r, vs => OnA [.float32x4] r vs
  | .rcpApprox, r, vs => OnA [.float32x4] r vs
  | .rsqrtApprox, r, vs => OnA [.float32x4] r vs
  | .min, r, vs => OnPair [.float32x4] r vs
  | .max, r, vs => OnPair [.float32x4] r vs
  | .minNum, r, vs => OnPair [.float32x4] r vs
  | .maxNum, r, vs => OnPair [.float32x4] r vs
  | .addSat, r, vs => OnPair [.int16x8, .int8x16] r vs
  | .subSat, r, vs => OnPair [.int16x8, .int8x16] r vs
  | .eq, r, vs => OnPair allTags r vs
  | .ne, r, vs => OnPair allTags r vs
  | .lt, r, vs => OnPair [.float32x4, .int32x4, .int16x8, .int8x16] r vs
  | .le, r, vs => OnPair [.float32x4, .int32x4, .int16x8, .int8x16] r vs
  | .gt, r, vs => OnPair [.float32x4, .int32x4, .int16x8, .int8x16] r vs
  | .ge, r, vs => OnPair [.float32x4, .int32x4, .int16x8, .int8x16] r vs
  | .and, r, vs => OnPair [.int32x4, .int16x8, .int8x16, .bool32x4, .bool16x8, .bool8x16] r vs
  | .or, r, vs => OnPair [.int32x4, .int16x8, .int8x16, .bool32x4, .bool16x8, .bool8x16] r vs
  | .xor, r, vs => OnPair [.int32x4, .int16x8, .int8x16, .bool32x4, .bool16x8, .bool8x16] r vs
  | .not, r, vs => OnA [.int32x4, .int16x8, .int8x16, .bool32x4, .bool16x8, .bool8x16] r vs
  | .shl, r, vs => OnA [.int32x4, .int16x8, .int8x16] r vs
  | .shrl, r, vs => OnA [.int32x4, .int16x8, .int8x16] r vs
  | .shra, r, vs => OnA [.int32x4, .int16x8, .int8x16] r vs
  | .swizzle, r, vs => ∃ a : Vec, r.a = a.port ∧ r.n.toNat = laneCount a.tag ∧ vs = [a]
  | .shuffle, r, vs =>
    ∃ a b : Vec, r.a = a.port ∧ r.b = b.port ∧ b.tag = a.tag ∧ r.n.toNat = laneCount a.tag ∧ vs = [a, b]
  | .select, r, vs =>
    ∃ a b m : Vec, r.a = a.port ∧ r.b = b.port ∧ b.tag = a.tag ∧ r.m = m.port ∧ m.tag = boolTag a.tag ∧
      vs = [a, b, m]
  | .cvt tt, r, vs =>
    ∃ a : Vec, r.a = a.port ∧ vs = [a] ∧
      ((a.tag = .float32x4 ∧ tt = some .int32x4) ∨ (a.tag = .int32x4 ∧ tt = some .float32x4))
  | .fromBits tt, r, vs => tt.isSome = true ∧ OnA allTags r vs
  | .bitEq, r, vs => OnAnyPair r vs
  | .sameValue, r, vs => OnAnyPair r vs
  | .sameValueZero, r, vs => OnAnyPair r vs
  | .anyTrue, r, vs => OnA [.bool32x4, .bool16x8, .bool8x16] r vs
  | .allTrue, r, vs => OnA [.bool32x4, .bool16x8, .bool8x16] r vs

/-- An operation answers IllegalRequest(0) for every request whose operands its row does not accept (R54). -/
def RejectsOtherOperands (i : Instr) : Prop :=
  ∀ s : State, (∀ vs, ¬ Accepted i s.req vs) → AnswersError i s .illegalRequest 0

/-- The word w stands for the operation i, read either way (the "Encoding" line of an operation's rule). -/
def EncodedAs (i : Instr) (w : Word) : Prop := decode w = .ok i ∧ encode i = w

/-- Lane k is the lowest non-canonical lane of the first non-canonical operand of the list (R55). -/
def FirstBadLane : List Vec → Nat → Prop
  | [], _ => False
  | v :: vs, k =>
    (category v.tag = .bool ∧ k < laneCount v.tag ∧
      (v.lane k ≠ 0 ∧ v.lane k ≠ BitVec.allOnes (laneWidth v.tag)) ∧
      ∀ j < k, v.lane j = 0 ∨ v.lane j = BitVec.allOnes (laneWidth v.tag)) ∨
    (v.Canonical ∧ FirstBadLane vs k)

/-- An operation is refused as Unsupported for every request whose operands its row accepts and of which one is not
canonical (R55, spec/60_exceptions.md R195). -/
def RefusesNonCanonical (i : Instr) : Prop :=
  ∀ (s : State) (vs : List Vec) (k : Nat), Accepted i s.req vs → FirstBadLane vs k →
    exec i s = .refused (.unsupported (BitVec.ofNat 32 k))

/-- Lane k is what the operation gets Unsupported for, on accepted operands vs: a non-canonical bool operand (R55), or the
non-canonical bool view FROMBITS would make (spec/45_conversion.md R177). -/
def UnsupportedAt (i : Instr) (vs : List Vec) (k : Nat) : Prop :=
  FirstBadLane vs k ∨ ∃ (t : Tag) (a : Vec), i = .fromBits (some t) ∧ vs = [a] ∧ FirstBadLane [a, { a with tag := t }] k

/-- A request that gets Unsupported (spec/60_exceptions.md R190). -/
def UnsupportedRequest (r : Request) : Prop :=
  r.reqValid = true ∧ ∃ i vs k, decode r.opw = .ok i ∧ Accepted i r vs ∧ UnsupportedAt i vs k

/-! R33's table -/

/-- Two requests agree on every port that R33's table gives the operation. -/
def AgreeOnPorts (i : Instr) (r r' : Request) : Prop :=
  match i with
  | .construct _ => r.n = r'.n ∧ r.l = r'.l
  | .extractLane => r.a = r'.a ∧ r.idx = r'.idx
  | .replaceLane => r.a = r'.a ∧ r.idx = r'.idx ∧ r.val = r'.val
  | .neg | .sqrt | .abs | .rcpApprox | .rsqrtApprox | .not | .anyTrue | .allTrue | .cvt _ | .fromBits _ => r.a = r'.a
  | .add | .sub | .mul | .div | .min | .max | .minNum | .maxNum | .addSat | .subSat => r.a = r'.a ∧ r.b = r'.b
  | .eq | .ne | .lt | .le | .gt | .ge | .and | .or | .xor => r.a = r'.a ∧ r.b = r'.b
  | .bitEq | .sameValue | .sameValueZero => r.a = r'.a ∧ r.b = r'.b
  | .shl | .shrl | .shra => r.a = r'.a ∧ r.shamt = r'.shamt
  | .swizzle => r.a = r'.a ∧ r.n = r'.n ∧ r.l = r'.l
  | .shuffle => r.a = r'.a ∧ r.b = r'.b ∧ r.n = r'.n ∧ r.l = r'.l
  | .select => r.a = r'.a ∧ r.b = r'.b ∧ r.m = r'.m

/-- The operations whose response R45 excepts from "the same request twice gives the same response": their NaN results, or
all their lanes, are open values. -/
def mayDraw : Instr → Bool
  | .add | .sub | .mul | .div | .sqrt | .rcpApprox | .rsqrtApprox => true
  | .construct _ | .extractLane | .replaceLane | .neg | .abs | .min | .max | .minNum | .maxNum | .addSat | .subSat => false
  | .eq | .ne | .lt | .le | .gt | .ge | .and | .or | .xor | .not | .shl | .shrl | .shra => false
  | .swizzle | .shuffle | .select | .cvt _ | .fromBits _ => false
  | .bitEq | .sameValue | .sameValueZero | .anyTrue | .allTrue => false

/-! IEEE-754 binary32 arithmetic, as relations between operands and result (spec/41_arithmetic.md R103, R104) -/

/-- Neither NaN nor an infinity. -/
def IsFinite (f : Word) : Prop := expField f ≠ 0xFF

/-- Bits [30:23] all ones and bit 22 set (R103). -/
def IsQuietNaN (f : Word) : Prop := f.extractLsb' 22 9 = BitVec.allOnes 9

/-- r is num/den (in units of 2^-149, den > 0) correctly rounded to binary32, to nearest with ties to even (R104): an
infinity of the value's sign at or above the midpoint between the greatest finite value and 2^128; below it a finite value
as near as any, and even where another is equally near. -/
def NearestEven (num : Int) (den : Nat) (r : Word) : Prop :=
  if den * ((2 ^ 25 - 1) * 2 ^ 253) ≤ 2 * num.natAbs then isInf r = true ∧ signBit r = decide (num < 0)
  else
    IsFinite r ∧
    ∀ f, IsFinite f →
      |fval r * den - num| ≤ |fval f * den - num| ∧
      (fval f ≠ fval r → |fval f * den - num| = |fval r * den - num| → r.toNat % 2 = 0)

/-- r is a + b. -/
def IsSum (a b r : Word) : Prop :=
  ((isNaN a ∨ isNaN b ∨ (isInf a ∧ isInf b ∧ signBit a ≠ signBit b)) → IsQuietNaN r) ∧
  (isInf a → ¬ isNaN b → (isInf b → signBit a = signBit b) → r = a) ∧
  (isInf b → IsFinite a → r = b) ∧
  (IsFinite a → IsFinite b → fval a + fval b = 0 → r = if signBit a ∧ signBit b then 0x80000000 else 0) ∧
  (IsFinite a → IsFinite b → fval a + fval b ≠ 0 → NearestEven (fval a + fval b) 1 r)

/-- r is a × b. -/
def IsProduct (a b r : Word) : Prop :=
  ((isNaN a ∨ isNaN b ∨ (isInf a ∧ isZero b) ∨ (isZero a ∧ isInf b)) → IsQuietNaN r) ∧
  (¬ isNaN a → ¬ isNaN b → ¬ (isInf a ∧ isZero b) → ¬ (isZero a ∧ isInf b) →
    signBit r = (signBit a != signBit b) ∧
    (isInf a ∨ isInf b → isInf r) ∧
    (IsFinite a → IsFinite b → NearestEven (fval a * fval b) (2 ^ 149) r))

/-- r is a / b. -/
def IsQuotient (a b r : Word) : Prop :=
  ((isNaN a ∨ isNaN b ∨ (isZero a ∧ isZero b) ∨ (isInf a ∧ isInf b)) → IsQuietNaN r) ∧
  (¬ isNaN a → ¬ isNaN b → ¬ (isZero a ∧ isZero b) → ¬ (isInf a ∧ isInf b) →
    signBit r = (signBit a != signBit b) ∧
    (isInf a ∨ isZero b → isInf r) ∧
    (IsFinite a → isInf b → isZero r) ∧
    (IsFinite a → IsFinite b → ¬ isZero b →
      NearestEven ((if signBit a = signBit b then 1 else -1) * (magnitude a * 2 ^ 149)) (magnitude b) r))

/-- r is the square root of a: -0 and +0 give themselves, a negative gives NaN; the root of a finite positive value, whose
value in units of 2^-149 is the real square root below, is correctly rounded and cannot overflow. -/
def IsSquareRoot (a r : Word) : Prop :=
  ((isNaN a ∨ (signBit a ∧ ¬ isZero a)) → IsQuietNaN r) ∧
  (isZero a → r = a) ∧
  (isInf a → ¬ signBit a → r = a) ∧
  (IsFinite a → ¬ signBit a → ¬ isZero a →
    IsFinite r ∧ signBit r = false ∧
    ∀ f, IsFinite f →
      |(fval r : ℝ) - Real.sqrt ((magnitude a : ℝ) * 2 ^ 149)| ≤ |(fval f : ℝ) - Real.sqrt ((magnitude a : ℝ) * 2 ^ 149)| ∧
      (fval f ≠ fval r →
        |(fval f : ℝ) - Real.sqrt ((magnitude a : ℝ) * 2 ^ 149)| = |(fval r : ℝ) - Real.sqrt ((magnitude a : ℝ) * 2 ^ 149)| →
        r.toNat % 2 = 0))

/-- r is the lane rule of MIN (R119), `CANONICAL_NAN` being 0x7FC00000 (R106). -/
def IsMinLane (a b r : Word) : Prop :=
  (isNaN a ∨ isNaN b → r = 0x7FC00000) ∧
  (¬ isNaN a → ¬ isNaN b →
    (fval a < fval b → r = a) ∧ (fval b < fval a → r = b) ∧ (fval a = fval b → r = if signBit a then a else b))

/-- r is the lane rule of MAX (R120). -/
def IsMaxLane (a b r : Word) : Prop :=
  (isNaN a ∨ isNaN b → r = 0x7FC00000) ∧
  (¬ isNaN a → ¬ isNaN b →
    (fval b < fval a → r = a) ∧ (fval a < fval b → r = b) ∧ (fval a = fval b → r = if signBit a then b else a))

/-- A Float32x4 lane CVT converts (spec/45_conversion.md R170). -/
def InIntRange (a : Word) : Prop :=
  ¬ isNaN a ∧ -2147483648 * 2 ^ 149 < fval a ∧ fval a < 2147483647 * 2 ^ 149

/-! Responses a claim may rest on -/

/-- A response a claim may rest on: "STATUS = IllegalRequest, IndexOutOfRange and RangeError are defined outcomes", and
Unsupported is read as a refusal (spec/60_exceptions.md R195). -/
def Response.Claimable (r : Response) : Prop := r.status ≠ .unsupported

end Sys2Proof.Machine
end

