-- ==== Sys2Proof/Certificates/Slice0/Obligations.lean ====
section
/-! DEFINITION. The statements for the provers. -/

open Sys2Proof Sys2Proof.Machine

/-! Encoding -/

/-- Decode of encode is the instruction, for every well-formed instruction (spec/30_encoding.md R50, R52). -/
def Obligations.DecodeOfEncode : Prop :=
  ∀ i : Instr, i.wellFormed = true → decode (encode i) = .ok i

/-- A word that decodes is the encoding of the well-formed instruction it decodes to, so no two words share an instruction. -/
def Obligations.EncodeOfDecode : Prop :=
  ∀ (w : Word) (i : Instr), decode w = .ok i → encode i = w ∧ i.wellFormed = true

/-- The words R53 calls illegal, and no others, are refused by the decoder, and a request carrying one gets
IllegalRequest(0). -/
def Obligations.IllegalWordsGetIllegalRequest : Prop :=
  ∀ w : Word,
    let op := (w.extractLsb' 0 6).toNat
    let tt := (w.extractLsb' 6 3).toNat
    let illegal :=
      w.extractLsb' 9 23 ≠ 0 ∨ op = 0x00 ∨ (0x04 ≤ op ∧ op ≤ 0x07) ∨
      op ∈ [0x17, 0x1E, 0x1F, 0x27] ∨ (0x2B ≤ op ∧ op ≤ 0x2F) ∨ (0x32 ≤ op ∧ op ≤ 0x37) ∨ (0x3D ≤ op ∧ op ≤ 0x3F) ∨
      (tt ≠ 0 ∧ op ∉ [0x01, 0x30, 0x31]) ∨ (tt = 7 ∧ op ∈ [0x01, 0x31])
    (illegal ↔ ∀ i, decode w ≠ .ok i) ∧
    (illegal → ∀ s : State, s.req.reqValid = true → s.req.opw = w →
      ∃ t, step s = .next t ∧ t.rspValid = true ∧
        t.rsp = { status := .illegalRequest, errInfo := 0, rv := Port.none, rs := 0 })

/-- Worked encodings of spec/30_encoding.md, section 5, decode to the operations they stand for. -/
def Obligations.WorkedEncodingsDecode : Prop :=
  decode 0x00000009 = .ok .add ∧ decode 0x000000C1 = .ok (.construct (some .int8x16)) ∧
  decode 0x00000070 = .ok (.cvt (some .int32x4)) ∧ decode 0x000001B1 = .ok (.fromBits (some .bool8x16)) ∧
  decode 0x00000015 = .ok .addSat ∧ decode 0x00000028 = .ok .swizzle ∧ decode 0x0000003C = .ok .allTrue

/-- A request written as text (R57) is presented and its operation word decodes to the operation it names; and each
operation's text, in the form R57's table gives it, puts its operands on the ports the table names, N counting the entries
listed. That a scalar must fit its 32-bit port, and what text is modelled from, is the model's choice (log entry 16). -/
def Obligations.TextRequestsDecode : Prop :=
  (∀ (op : Instr) (o : OperandText) (r : Request), requestOfText op o = some r →
    r.reqValid = true ∧ decode r.opw = .ok op) ∧
  ∀ (a b m : Port) (i x : ScalarText) (entries : List ScalarText), scalarFits i = true → scalarFits x = true →
    (∀ e ∈ entries, scalarFits e = true) → entries.length ≤ 16 →
    let gives (op : Instr) (o : OperandText) (ports : Request → Prop) : Prop := ∃ r, requestOfText op o = some r ∧ ports r
    let lists (r : Request) : Prop :=
      r.n.toNat = entries.length ∧ ∀ k (h : k < entries.length), r.entry k = scalarWord entries[k]
    (∀ t, gives (.construct (some t)) (.lanes entries) lists) ∧
    gives .extractLane (.lane a i) (fun r => r.a = a ∧ r.idx = scalarWord i) ∧
    gives .replaceLane (.laneValue a i x) (fun r => r.a = a ∧ r.idx = scalarWord i ∧ r.val = scalarWord x) ∧
    (∀ op ∈ [Instr.neg, .sqrt, .abs, .rcpApprox, .rsqrtApprox, .not, .anyTrue, .allTrue],
      gives op (.one a) fun r => r.a = a) ∧
    (∀ op ∈ [Instr.add, .sub, .mul, .div, .min, .max, .minNum, .maxNum, .addSat, .subSat, .eq, .ne, .lt, .le, .gt, .ge,
        .and, .or, .xor, .bitEq, .sameValue, .sameValueZero],
      gives op (.two a b) fun r => r.a = a ∧ r.b = b) ∧
    (∀ op ∈ [Instr.shl, .shrl, .shra], gives op (.amount a i) fun r => r.a = a ∧ r.shamt = scalarWord i) ∧
    gives .swizzle (.indices a entries) (fun r => r.a = a ∧ lists r) ∧
    gives .shuffle (.indicesPair a b entries) (fun r => r.a = a ∧ r.b = b ∧ lists r) ∧
    gives .select (.mask m a b) (fun r => r.m = m ∧ r.a = a ∧ r.b = b) ∧
    (∀ t, gives (.cvt (some t)) (.one a) fun r => r.a = a) ∧
    (∀ t, gives (.fromBits (some t)) (.one a) fun r => r.a = a)

/-- What a scalar of a request's text puts on its port (R57): an integer itself, unsigned or in two's complement (R51), a
pattern its bits, a bool 1 or 0. An integer that does not fit the 32 bits is in no request's text, by the model's choice (log
entry 16). -/
def Obligations.TextScalarsFillTheirPorts : Prop :=
  (∀ n : Int, 0 ≤ n → n < 2 ^ 32 → scalarFits (.int n) = true ∧ ((scalarWord (.int n)).toNat : Int) = n) ∧
  (∀ n : Int, -2 ^ 31 ≤ n → n < 0 → scalarFits (.int n) = true ∧ (scalarWord (.int n)).toInt = n) ∧
  (∀ w : Word, scalarWord (.pattern w) = w) ∧ scalarWord (.bool true) = 1 ∧ scalarWord (.bool false) = 0 ∧
  ∀ (op : Instr) (o : OperandText) (n : Int), .int n ∈ o.scalars → n < -2 ^ 31 ∨ 2 ^ 32 ≤ n → requestOfText op o = none

/-- A step runs the decoded instruction, and then the host presents its next request signals, whose list is the model's
(log entry 3); where the instruction is refused, the step is. No instruction faults. -/
def Obligations.StepRunsDecodedInstruction : Prop :=
  ∀ (s : State) (i : Instr), s.req.reqValid = true → decode s.req.opw = .ok i →
    (∀ t, exec i s = .next t →
      step s = .next { t with req := t.inputs.headD Request.idle, inputs := t.inputs.tail }) ∧
    (∀ e, exec i s = .refused e → step s = .refused e) ∧
    ∀ f, exec i s ≠ .fault f

/-! Lane access -/

/-- CONSTRUCT.T (R80): each lane from its array entry by `lanein` (R31); IllegalRequest for TT = 7 or N other than n(T). -/
def Obligations.ConstructBuildsLanes : Prop :=
  (∀ t : Tag, EncodedAs (.construct (some t)) (0x01 ||| (tagCode (some t)).setWidth 32 <<< 6)) ∧
  (∀ (s : State) (t : Tag), s.req.n.toNat = laneCount t →
    AnswersVec (.construct (some t)) s t fun k r =>
      match category t with
      | .float => r = (s.req.entry k).setWidth (laneWidth t)
      | .int => r = (s.req.entry k).setWidth (laneWidth t)
      | .bool => r = if s.req.entry k = 0 then 0 else BitVec.allOnes (laneWidth t)) ∧
  ∀ tt, RejectsOtherOperands (.construct tt)

/-- EXTRACT_LANE (R81): lane IDX by `laneout` (R32), or IndexOutOfRange with IDX. -/
def Obligations.ExtractLaneReadsLane : Prop :=
  EncodedAs .extractLane 0x00000002 ∧
  (∀ (s : State) (a : Vec), s.req.a = a.port → a.Canonical →
    (s.req.idx.toNat < laneCount a.tag →
      AnswersScalar .extractLane s
        (match category a.tag with
        | .float => (a.lane s.req.idx.toNat).setWidth 32
        | .int => (a.lane s.req.idx.toNat).signExtend 32
        | .bool => if a.lane s.req.idx.toNat = 0 then 0 else 1)) ∧
    (laneCount a.tag ≤ s.req.idx.toNat → AnswersError .extractLane s .indexOutOfRange s.req.idx)) ∧
  RejectsOtherOperands .extractLane

/-- REPLACE_LANE (R82): lane IDX from VAL by `lanein` (R31), the other lanes A's; or IndexOutOfRange with IDX. -/
def Obligations.ReplaceLaneSetsOneLane : Prop :=
  EncodedAs .replaceLane 0x00000003 ∧
  (∀ (s : State) (a : Vec), s.req.a = a.port → a.Canonical →
    (s.req.idx.toNat < laneCount a.tag →
      AnswersVec .replaceLane s a.tag fun k r =>
        (k ≠ s.req.idx.toNat → r = a.lane k) ∧
        (k = s.req.idx.toNat →
          match category a.tag with
          | .float => r = s.req.val.setWidth (laneWidth a.tag)
          | .int => r = s.req.val.setWidth (laneWidth a.tag)
          | .bool => r = if s.req.val = 0 then 0 else BitVec.allOnes (laneWidth a.tag))) ∧
    (laneCount a.tag ≤ s.req.idx.toNat → AnswersError .replaceLane s .indexOutOfRange s.req.idx)) ∧
  RejectsOtherOperands .replaceLane

/-! Arithmetic -/

/-- NEG (R110): the sign bit flipped on float lanes, wrapping negation on integer lanes. -/
def Obligations.NegNegatesLanes : Prop :=
  EncodedAs .neg 0x00000008 ∧
  (∀ (s : State) (a : Vec), s.req.a = a.port →
    (a.tag = .float32x4 → AnswersFloats .neg s fun k r => r = lane 32 a.bits k ^^^ 0x80000000) ∧
    (category a.tag = .int →
      AnswersVec .neg s a.tag fun k r => r = BitVec.ofInt (laneWidth a.tag) (-(a.lane k).toInt))) ∧
  RejectsOtherOperands .neg

/-- ADD and SUB (R111, R112, R104): IEEE sums and differences on float lanes, wrapping results on integer lanes. That x - y is
x + (-y), a sum with one infinity that infinity, and rounding to an infinity from the overflow midpoint on, is log entry 11. -/
def Obligations.AddAndSubLanes : Prop :=
  EncodedAs .add 0x00000009 ∧ EncodedAs .sub 0x0000000A ∧
  (∀ (s : State) (a b : Vec), s.req.a = a.port → s.req.b = b.port → b.tag = a.tag →
    (a.tag = .float32x4 →
      AnswersFloats .add s (fun k r => IsSum (lane 32 a.bits k) (lane 32 b.bits k) r) ∧
      AnswersFloats .sub s (fun k r => IsSum (lane 32 a.bits k) (lane 32 b.bits k ^^^ 0x80000000) r)) ∧
    (category a.tag = .int →
      AnswersVec .add s a.tag (fun k r =>
        r = BitVec.ofInt (laneWidth a.tag) ((a.lane k).toInt + (lane (laneWidth a.tag) b.bits k).toInt)) ∧
      AnswersVec .sub s a.tag (fun k r =>
        r = BitVec.ofInt (laneWidth a.tag) ((a.lane k).toInt - (lane (laneWidth a.tag) b.bits k).toInt)))) ∧
  RejectsOtherOperands .add ∧ RejectsOtherOperands .sub

/-- MUL (R113, R104): IEEE products on float lanes, the low w bits of the product on integer lanes. That an infinity times a
nonzero is an infinity, and rounding is to one from the overflow midpoint on, is log entry 11. -/
def Obligations.MulLanes : Prop :=
  EncodedAs .mul 0x0000000B ∧
  (∀ (s : State) (a b : Vec), s.req.a = a.port → s.req.b = b.port → b.tag = a.tag →
    (a.tag = .float32x4 →
      AnswersFloats .mul s fun k r => IsProduct (lane 32 a.bits k) (lane 32 b.bits k) r) ∧
    (category a.tag = .int →
      AnswersVec .mul s a.tag fun k r =>
        r = BitVec.ofInt (laneWidth a.tag) ((a.lane k).toInt * (lane (laneWidth a.tag) b.bits k).toInt))) ∧
  RejectsOtherOperands .mul

/-- DIV (R114, R104): IEEE quotients, on Float32x4 only. That an infinity over a finite value is an infinity, a finite value
over an infinity a zero, and rounding to an infinity from the overflow midpoint on, is log entry 11. -/
def Obligations.DivLanes : Prop :=
  EncodedAs .div 0x0000000C ∧
  (∀ (s : State) (a b : Vec), s.req.a = a.port → s.req.b = b.port → a.tag = .float32x4 → b.tag = .float32x4 →
    AnswersFloats .div s fun k r => IsQuotient (lane 32 a.bits k) (lane 32 b.bits k) r) ∧
  RejectsOtherOperands .div

/-- SQRT (R115): IEEE square roots, on Float32x4 only. -/
def Obligations.SqrtLanes : Prop :=
  EncodedAs .sqrt 0x0000000D ∧
  (∀ (s : State) (a : Vec), s.req.a = a.port → a.tag = .float32x4 →
    AnswersFloats .sqrt s fun k r => IsSquareRoot (lane 32 a.bits k) r) ∧
  RejectsOtherOperands .sqrt

/-- ABS (R116): the sign bit cleared, on Float32x4 only. -/
def Obligations.AbsClearsSign : Prop :=
  EncodedAs .abs 0x0000000E ∧
  (∀ (s : State) (a : Vec), s.req.a = a.port → a.tag = .float32x4 →
    AnswersFloats .abs s fun k r => r = lane 32 a.bits k &&& 0x7FFFFFFF) ∧
  RejectsOtherOperands .abs

/-- RCPAPPROX and RSQRTAPPROX (R117, R118): every lane is the opaque function's value at A's lane, a function of the lane's
bits alone, of which nothing is assumed. -/
def Obligations.ApproximationsAreOpenFunctions : Prop :=
  EncodedAs .rcpApprox 0x0000000F ∧ EncodedAs .rsqrtApprox 0x00000010 ∧
  (∀ (s : State) (a : Vec), s.req.a = a.port → a.tag = .float32x4 →
    AnswersFloats .rcpApprox s (fun k r => r = Config.rcpApprox (lane 32 a.bits k)) ∧
    AnswersFloats .rsqrtApprox s (fun k r => r = Config.rsqrtApprox (lane 32 a.bits k))) ∧
  RejectsOtherOperands .rcpApprox ∧ RejectsOtherOperands .rsqrtApprox

/-- MIN and MAX (R119, R120, R106): -0 below +0, and NaN gives the canonical NaN. -/
def Obligations.MinAndMaxLanes : Prop :=
  EncodedAs .min 0x00000011 ∧ EncodedAs .max 0x00000012 ∧
  (∀ (s : State) (a b : Vec), s.req.a = a.port → s.req.b = b.port → a.tag = .float32x4 → b.tag = .float32x4 →
    AnswersFloats .min s (fun k r => IsMinLane (lane 32 a.bits k) (lane 32 b.bits k) r) ∧
    AnswersFloats .max s (fun k r => IsMaxLane (lane 32 a.bits k) (lane 32 b.bits k) r)) ∧
  RejectsOtherOperands .min ∧ RejectsOtherOperands .max

/-- MINNUM and MAXNUM (R121, R122): the other operand when exactly one is NaN, else the rule of MIN or MAX. -/
def Obligations.MinNumAndMaxNumLanes : Prop :=
  EncodedAs .minNum 0x00000013 ∧ EncodedAs .maxNum 0x00000014 ∧
  (∀ (s : State) (a b : Vec), s.req.a = a.port → s.req.b = b.port → a.tag = .float32x4 → b.tag = .float32x4 →
    AnswersFloats .minNum s (fun k r =>
      (isNaN (lane 32 a.bits k) → ¬ isNaN (lane 32 b.bits k) → r = lane 32 b.bits k) ∧
      (isNaN (lane 32 b.bits k) → ¬ isNaN (lane 32 a.bits k) → r = lane 32 a.bits k) ∧
      ((isNaN (lane 32 a.bits k) ↔ isNaN (lane 32 b.bits k)) → IsMinLane (lane 32 a.bits k) (lane 32 b.bits k) r)) ∧
    AnswersFloats .maxNum s (fun k r =>
      (isNaN (lane 32 a.bits k) → ¬ isNaN (lane 32 b.bits k) → r = lane 32 b.bits k) ∧
      (isNaN (lane 32 b.bits k) → ¬ isNaN (lane 32 a.bits k) → r = lane 32 a.bits k) ∧
      ((isNaN (lane 32 a.bits k) ↔ isNaN (lane 32 b.bits k)) → IsMaxLane (lane 32 a.bits k) (lane 32 b.bits k) r))) ∧
  RejectsOtherOperands .minNum ∧ RejectsOtherOperands .maxNum

/-- ADDSAT and SUBSAT (R123, R124, R102): the exact sum or difference clamped to the lane's range. -/
def Obligations.SaturatingLanesClamp : Prop :=
  EncodedAs .addSat 0x00000015 ∧ EncodedAs .subSat 0x00000016 ∧
  (∀ (s : State) (a b : Vec), s.req.a = a.port → s.req.b = b.port → a.tag ∈ [Tag.int16x8, Tag.int8x16] → b.tag = a.tag →
    AnswersVec .addSat s a.tag (fun k r =>
      r.toInt = max (-2 ^ (laneWidth a.tag - 1))
        (min (2 ^ (laneWidth a.tag - 1) - 1) ((a.lane k).toInt + (lane (laneWidth a.tag) b.bits k).toInt))) ∧
    AnswersVec .subSat s a.tag (fun k r =>
      r.toInt = max (-2 ^ (laneWidth a.tag - 1))
        (min (2 ^ (laneWidth a.tag - 1) - 1) ((a.lane k).toInt - (lane (laneWidth a.tag) b.bits k).toInt)))) ∧
  RejectsOtherOperands .addSat ∧ RejectsOtherOperands .subSat

/-- Rounding in the model is IEEE-754 round to nearest, ties to even, for every exact quotient and sign (R104). That it is
to an infinity from the overflow midpoint on is log entry 11. -/
def Obligations.RoundingIsNearestEven : Prop :=
  ∀ (num den : Nat) (sign : Bool), 0 < den →
    NearestEven (if sign then -(num : Int) else num) den (mkFloat sign (roundPattern num den))

/-- A NaN lane that ADD, SUB, MUL, DIV or SQRT produces on Float32x4 is quiet (R103). -/
def Obligations.FloatArithmeticNaNsAreQuiet : Prop :=
  ∀ (i : Instr) (s t : State) (v : Vec), i ∈ [Instr.add, .sub, .mul, .div, .sqrt] → exec i s = .next t →
    t.rsp.rv = v.port → v.tag = .float32x4 → ∀ k < 4, isNaN (lane 32 v.bits k) → IsQuietNaN (lane 32 v.bits k)

/-! Comparators and logic -/

/-- EQ and NE (R130, R131, with R125 and R126): a canonical bool lane per comparison, on every tag. -/
def Obligations.EqualityComparators : Prop :=
  EncodedAs .eq 0x00000018 ∧ EncodedAs .ne 0x00000019 ∧
  (∀ (s : State) (a b : Vec), s.req.a = a.port → s.req.b = b.port → b.tag = a.tag → a.Canonical → b.Canonical →
    let equal (k : Nat) : Prop :=
      match category a.tag with
      | .float => ¬ isNaN (lane 32 a.bits k) ∧ ¬ isNaN (lane 32 b.bits k) ∧ fval (lane 32 a.bits k) = fval (lane 32 b.bits k)
      | .int => (a.lane k).toInt = (lane (laneWidth a.tag) b.bits k).toInt
      | .bool => a.lane k = lane (laneWidth a.tag) b.bits k
    AnswersVec .eq s (boolTag a.tag) (fun k r =>
      (equal k → r = BitVec.allOnes (laneWidth (boolTag a.tag))) ∧ (¬ equal k → r = 0)) ∧
    AnswersVec .ne s (boolTag a.tag) (fun k r =>
      (¬ equal k → r = BitVec.allOnes (laneWidth (boolTag a.tag))) ∧ (equal k → r = 0))) ∧
  RejectsOtherOperands .eq ∧ RejectsOtherOperands .ne

/-- LT, LE, GT and GE (R132 to R135, with R125 and R126): signed on integer lanes, IEEE quiet on float lanes. -/
def Obligations.OrderingComparators : Prop :=
  EncodedAs .lt 0x0000001A ∧ EncodedAs .le 0x0000001B ∧ EncodedAs .gt 0x0000001C ∧ EncodedAs .ge 0x0000001D ∧
  (∀ (s : State) (a b : Vec), s.req.a = a.port → s.req.b = b.port → b.tag = a.tag → category a.tag ≠ .bool →
    let holds (onInt : Int → Int → Prop) (k : Nat) : Prop :=
      if a.tag = .float32x4 then
        ¬ isNaN (lane 32 a.bits k) ∧ ¬ isNaN (lane 32 b.bits k) ∧
          onInt (fval (lane 32 a.bits k)) (fval (lane 32 b.bits k))
      else onInt (a.lane k).toInt (lane (laneWidth a.tag) b.bits k).toInt
    let answers (i : Instr) (onInt : Int → Int → Prop) : Prop :=
      AnswersVec i s (boolTag a.tag) fun k r =>
        (holds onInt k → r = BitVec.allOnes (laneWidth (boolTag a.tag))) ∧ (¬ holds onInt k → r = 0)
    answers .lt (· < ·) ∧ answers .le (· ≤ ·) ∧ answers .gt (· > ·) ∧ answers .ge (· ≥ ·)) ∧
  RejectsOtherOperands .lt ∧ RejectsOtherOperands .le ∧ RejectsOtherOperands .gt ∧ RejectsOtherOperands .ge

/-- NE is the lane-wise complement of EQ on every tag (R131, corner cases). -/
def Obligations.NotEqualComplementsEqual : Prop :=
  ∀ (s : State) (a b : Vec), s.req.a = a.port → s.req.b = b.port → b.tag = a.tag → a.Canonical → b.Canonical →
    ∃ bits : Bits,
      Answers .eq s { status := .ok, errInfo := 0, rv := { tag := some (boolTag a.tag), bits := bits }, rs := 0 } ∧
      Answers .ne s { status := .ok, errInfo := 0, rv := { tag := some (boolTag a.tag), bits := ~~~bits }, rs := 0 }

/-- AND, OR, XOR and NOT (R136 to R139, R127) act on the 128 bits, on integer and bool tags. -/
def Obligations.LogicalOperationsActOnBits : Prop :=
  EncodedAs .and 0x00000020 ∧ EncodedAs .or 0x00000021 ∧ EncodedAs .xor 0x00000022 ∧ EncodedAs .not 0x00000023 ∧
  (∀ (s : State) (a b : Vec), s.req.a = a.port → s.req.b = b.port → a.tag ≠ .float32x4 → b.tag = a.tag →
    a.Canonical → b.Canonical →
    let answers (i : Instr) (bits : Bits) : Prop :=
      Answers i s { status := .ok, errInfo := 0, rv := { tag := some a.tag, bits := bits }, rs := 0 }
    answers .and (a.bits &&& b.bits) ∧ answers .or (a.bits ||| b.bits) ∧ answers .xor (a.bits ^^^ b.bits)) ∧
  (∀ (s : State) (a : Vec), s.req.a = a.port → a.tag ≠ .float32x4 → a.Canonical →
    Answers .not s { status := .ok, errInfo := 0, rv := { tag := some a.tag, bits := ~~~a.bits }, rs := 0 }) ∧
  RejectsOtherOperands .and ∧ RejectsOtherOperands .or ∧ RejectsOtherOperands .xor ∧ RejectsOtherOperands .not

/-! Shifts -/

/-- SHL and SHRL (R141, R142, R140): zero fill, and zero lanes for an amount of w or more. -/
def Obligations.LogicalShiftsZeroFill : Prop :=
  EncodedAs .shl 0x00000024 ∧ EncodedAs .shrl 0x00000025 ∧
  (∀ (s : State) (a : Vec), s.req.a = a.port → category a.tag = .int →
    AnswersVec .shl s a.tag (fun k r =>
      (s.req.shamt.toNat < laneWidth a.tag →
        r.toNat = (a.lane k).toNat * 2 ^ s.req.shamt.toNat % 2 ^ laneWidth a.tag) ∧
      (laneWidth a.tag ≤ s.req.shamt.toNat → r = 0)) ∧
    AnswersVec .shrl s a.tag (fun k r =>
      (s.req.shamt.toNat < laneWidth a.tag → r.toNat = (a.lane k).toNat / 2 ^ s.req.shamt.toNat) ∧
      (laneWidth a.tag ≤ s.req.shamt.toNat → r = 0))) ∧
  RejectsOtherOperands .shl ∧ RejectsOtherOperands .shrl

/-- SHRA (R143, R140): the floor of the signed lane over 2^s', s' the amount clamped to w - 1. -/
def Obligations.ArithmeticShiftClamps : Prop :=
  EncodedAs .shra 0x00000026 ∧
  (∀ (s : State) (a : Vec), s.req.a = a.port → category a.tag = .int →
    AnswersVec .shra s a.tag fun k r =>
      r.toInt = Int.fdiv (a.lane k).toInt (2 ^ min s.req.shamt.toNat (laneWidth a.tag - 1))) ∧
  RejectsOtherOperands .shra

/-! Permute and select -/

/-- SWIZZLE (R160, R150): lane i is lane L[i] of A, or IndexOutOfRange with the lowest bad position. -/
def Obligations.SwizzleSelectsLanes : Prop :=
  EncodedAs .swizzle 0x00000028 ∧
  (∀ (s : State) (a : Vec), s.req.a = a.port → a.Canonical → s.req.n.toNat = laneCount a.tag →
    ((∀ i < laneCount a.tag, (s.req.entry i).toNat < laneCount a.tag) →
      AnswersVec .swizzle s a.tag fun k r => r = a.lane (s.req.entry k).toNat) ∧
    (∀ i < laneCount a.tag, laneCount a.tag ≤ (s.req.entry i).toNat →
      (∀ j < i, (s.req.entry j).toNat < laneCount a.tag) →
      AnswersError .swizzle s .indexOutOfRange (BitVec.ofNat 32 i))) ∧
  RejectsOtherOperands .swizzle

/-- SHUFFLE (R161, R150): lane i is lane L[i] of A below n and lane L[i] - n of B from n on, or IndexOutOfRange. -/
def Obligations.ShuffleSelectsFromBoth : Prop :=
  EncodedAs .shuffle 0x00000029 ∧
  (∀ (s : State) (a b : Vec), s.req.a = a.port → s.req.b = b.port → b.tag = a.tag → a.Canonical → b.Canonical →
    s.req.n.toNat = laneCount a.tag →
    ((∀ i < laneCount a.tag, (s.req.entry i).toNat < 2 * laneCount a.tag) →
      AnswersVec .shuffle s a.tag fun k r =>
        ((s.req.entry k).toNat < laneCount a.tag → r = a.lane (s.req.entry k).toNat) ∧
        (laneCount a.tag ≤ (s.req.entry k).toNat →
          r = lane (laneWidth a.tag) b.bits ((s.req.entry k).toNat - laneCount a.tag))) ∧
    (∀ i < laneCount a.tag, 2 * laneCount a.tag ≤ (s.req.entry i).toNat →
      (∀ j < i, (s.req.entry j).toNat < 2 * laneCount a.tag) →
      AnswersError .shuffle s .indexOutOfRange (BitVec.ofNat 32 i))) ∧
  RejectsOtherOperands .shuffle

/-- SELECT (R162): lane i from A where the mask lane is true, from B where it is false. -/
def Obligations.SelectBlendsByMask : Prop :=
  EncodedAs .select 0x0000002A ∧
  (∀ (s : State) (a b m : Vec), s.req.a = a.port → s.req.b = b.port → s.req.m = m.port → b.tag = a.tag →
    m.tag = boolTag a.tag → a.Canonical → b.Canonical → m.Canonical →
    AnswersVec .select s a.tag fun k r =>
      (lane (laneWidth a.tag) m.bits k = BitVec.allOnes (laneWidth a.tag) → r = a.lane k) ∧
      (lane (laneWidth a.tag) m.bits k = 0 → r = lane (laneWidth a.tag) b.bits k)) ∧
  RejectsOtherOperands .select ∧ RefusesNonCanonical .select

/-- With a canonical mask SELECT is (M AND A) OR (NOT M AND B) on the 128 bits (R162, corner cases). -/
def Obligations.SelectIsBitwiseBlend : Prop :=
  ∀ (s : State) (a b m : Vec), s.req.a = a.port → s.req.b = b.port → s.req.m = m.port → b.tag = a.tag →
    m.tag = boolTag a.tag → a.Canonical → b.Canonical → m.Canonical →
    Answers .select s
      { status := .ok, errInfo := 0, rs := 0
        rv := { tag := some a.tag, bits := (m.bits &&& a.bits) ||| (~~~m.bits &&& b.bits) } }

/-- SWIZZLE with the identity indices returns A bit for bit (R160, corner cases). -/
def Obligations.IdentitySwizzleReturnsOperand : Prop :=
  ∀ (s : State) (a : Vec), s.req.a = a.port → a.Canonical → s.req.n.toNat = laneCount a.tag →
    (∀ i < laneCount a.tag, (s.req.entry i).toNat = i) →
    Answers .swizzle s { status := .ok, errInfo := 0, rv := a.port, rs := 0 }

/-! Casts -/

/-- CVT (R175 with R170, R171, R172): toward zero to Int32, or RangeError with the lowest lane out of range; to the nearest
binary32, ties to even, from Int32; IllegalRequest for any other pairing. -/
def Obligations.CvtConvertsValues : Prop :=
  EncodedAs (.cvt (some .int32x4)) 0x00000070 ∧ EncodedAs (.cvt (some .float32x4)) 0x00000030 ∧
  (∀ (s : State) (a : Vec), s.req.a = a.port → a.tag = .float32x4 →
    ((∀ i < 4, InIntRange (lane 32 a.bits i)) →
      AnswersVec (.cvt (some .int32x4)) s .int32x4 fun k r =>
        r.toInt = Int.tdiv (fval (lane 32 a.bits k)) (2 ^ 149)) ∧
    (∀ i < 4, ¬ InIntRange (lane 32 a.bits i) → (∀ j < i, InIntRange (lane 32 a.bits j)) →
      AnswersError (.cvt (some .int32x4)) s .rangeError (BitVec.ofNat 32 i))) ∧
  (∀ (s : State) (a : Vec), s.req.a = a.port → a.tag = .int32x4 →
    AnswersFloats (.cvt (some .float32x4)) s fun k r =>
      signBit r = decide ((lane 32 a.bits k).toInt < 0) ∧ NearestEven ((lane 32 a.bits k).toInt * 2 ^ 149) 1 r) ∧
  ∀ tt, RejectsOtherOperands (.cvt tt)

/-- The range test of CVT is the test |a| < 0x4F000000 on the pattern without its sign bit (R170): it is so of the model's
test, and CVT to Int32 answers a vector exactly where every lane passes, else RangeError with the lowest that does not. -/
def Obligations.RangeTestIsMagnitudeTest : Prop :=
  (∀ a : Word, convertible a = true ↔ (a &&& 0x7FFFFFFF).toNat < 0x4F000000) ∧
  ∀ (s : State) (a : Vec), s.req.a = a.port → a.tag = .float32x4 →
    let passes (i : Nat) : Prop := (lane 32 a.bits i &&& 0x7FFFFFFF).toNat < 0x4F000000
    ((∀ i < 4, passes i) → ∃ bits : Bits,
      Answers (.cvt (some .int32x4)) s
        { status := .ok, errInfo := 0, rv := { tag := some .int32x4, bits := bits }, rs := 0 }) ∧
    (∀ i < 4, ¬ passes i → (∀ j < i, passes j) →
      AnswersError (.cvt (some .int32x4)) s .rangeError (BitVec.ofNat 32 i))

/-- FROMBITS (R177): the same 128 bits under TT; Unsupported with the lowest lane of a non-canonical bool view, which is
refused (R195). -/
def Obligations.FromBitsKeepsBits : Prop :=
  (∀ t : Tag, EncodedAs (.fromBits (some t)) (0x31 ||| (tagCode (some t)).setWidth 32 <<< 6)) ∧
  (∀ (s : State) (a : Vec) (t : Tag), s.req.a = a.port → a.Canonical →
    (Vec.Canonical { tag := t, bits := a.bits } →
      Answers (.fromBits (some t)) s
        { status := .ok, errInfo := 0, rv := { tag := some t, bits := a.bits }, rs := 0 }) ∧
    (∀ k, FirstBadLane [{ tag := t, bits := a.bits }] k →
      exec (.fromBits (some t)) s = .refused (.unsupported (BitVec.ofNat 32 k)))) ∧
  ∀ tt, RejectsOtherOperands (.fromBits tt)

/-- Reinterpreting under another tag and back gives the value back, bit for bit, where the view between is canonical (R177). -/
def Obligations.FromBitsRoundTrip : Prop :=
  ∀ (s : State) (a : Vec) (t : Tag), s.req.a = a.port → a.Canonical → Vec.Canonical { tag := t, bits := a.bits } →
    ∃ p : Port,
      Answers (.fromBits (some t)) s { status := .ok, errInfo := 0, rv := p, rs := 0 } ∧
      ∀ s' : State, s'.req.a = p →
        Answers (.fromBits (some a.tag)) s' { status := .ok, errInfo := 0, rv := a.port, rs := 0 }

/-! Equality and reductions -/

/-- BITEQ (R180): the 128 bits, whatever the tags. -/
def Obligations.BitEqComparesBits : Prop :=
  EncodedAs .bitEq 0x00000038 ∧
  (∀ (s : State) (a b : Vec), s.req.a = a.port → s.req.b = b.port → a.Canonical → b.Canonical →
    (a.bits = b.bits → AnswersScalar .bitEq s 1) ∧ (a.bits ≠ b.bits → AnswersScalar .bitEq s 0)) ∧
  RejectsOtherOperands .bitEq

/-- SAMEVALUE (R181): equal tags, and on Float32x4 lanes that are both NaN or equal bits, else equal bits. -/
def Obligations.SameValueDistinguishesZeros : Prop :=
  EncodedAs .sameValue 0x00000039 ∧
  (∀ (s : State) (a b : Vec), s.req.a = a.port → s.req.b = b.port → a.Canonical → b.Canonical →
    let same : Prop :=
      a.tag = b.tag ∧
        if a.tag = .float32x4 then
          ∀ i < 4, (isNaN (lane 32 a.bits i) ∧ isNaN (lane 32 b.bits i)) ∨ lane 32 a.bits i = lane 32 b.bits i
        else a.bits = b.bits
    (same → AnswersScalar .sameValue s 1) ∧ (¬ same → AnswersScalar .sameValue s 0)) ∧
  RejectsOtherOperands .sameValue

/-- SAMEVALUEZERO (R182): SAMEVALUE with +0 and -0 equal. -/
def Obligations.SameValueZeroIdentifiesZeros : Prop :=
  EncodedAs .sameValueZero 0x0000003A ∧
  (∀ (s : State) (a b : Vec), s.req.a = a.port → s.req.b = b.port → a.Canonical → b.Canonical →
    let same : Prop :=
      a.tag = b.tag ∧
        if a.tag = .float32x4 then
          ∀ i < 4, (isNaN (lane 32 a.bits i) ∧ isNaN (lane 32 b.bits i)) ∨ lane 32 a.bits i = lane 32 b.bits i ∨
            (isZero (lane 32 a.bits i) ∧ isZero (lane 32 b.bits i))
        else a.bits = b.bits
    (same → AnswersScalar .sameValueZero s 1) ∧ (¬ same → AnswersScalar .sameValueZero s 0)) ∧
  RejectsOtherOperands .sameValueZero

/-- ANYTRUE and ALLTRUE (R183, R184): some lane, or every lane, of a bool value is true. -/
def Obligations.BoolReductions : Prop :=
  EncodedAs .anyTrue 0x0000003B ∧ EncodedAs .allTrue 0x0000003C ∧
  (∀ (s : State) (a : Vec), s.req.a = a.port → category a.tag = .bool → a.Canonical →
    ((∃ i < laneCount a.tag, a.lane i = BitVec.allOnes (laneWidth a.tag)) → AnswersScalar .anyTrue s 1) ∧
    ((∀ i < laneCount a.tag, a.lane i = 0) → AnswersScalar .anyTrue s 0) ∧
    ((∀ i < laneCount a.tag, a.lane i = BitVec.allOnes (laneWidth a.tag)) → AnswersScalar .allTrue s 1) ∧
    ((∃ i < laneCount a.tag, a.lane i = 0) → AnswersScalar .allTrue s 0)) ∧
  RejectsOtherOperands .anyTrue ∧ RejectsOtherOperands .allTrue ∧
  RefusesNonCanonical .anyTrue ∧ RefusesNonCanonical .allTrue

/-! The whole machine -/

/-- Every operation answers IllegalRequest(0) for operands outside its row of R54's table: a wrong or reserved tag, or a wrong N. -/
def Obligations.UnacceptedOperandsAreIllegal : Prop := ∀ i : Instr, RejectsOtherOperands i

/-- A non-canonical bool operand gets Unsupported with the lowest such lane of the first such port (R55), after the tag and
count checks and before the operation's own (R56): a refusal that carries the lane (R195). -/
def Obligations.NonCanonicalOperandsAreUnsupported : Prop := ∀ i : Instr, RefusesNonCanonical i

/-- Nothing else is refused: an operation is refused exactly for accepted operands of which one, or the view FROMBITS would
make of it, holds a non-canonical bool lane, and the refusal carries that lane (R55, R177, R195). -/
def Obligations.RefusedExactlyWhereUnsupported : Prop :=
  ∀ (i : Instr) (s : State) (e : Refusal),
    exec i s = .refused e ↔
      ∃ vs k, Accepted i s.req vs ∧ UnsupportedAt i vs k ∧ e = .unsupported (BitVec.ofNat 32 k)

/-- The check order (R56), seen at the step: an illegal word decides before any operand does, tags and N before the lanes of
bool operands, and those before the operation's own checks and its computation. -/
def Obligations.ChecksAreMadeInOrder : Prop :=
  ∀ s : State, s.req.reqValid = true →
    let illegal : Prop :=
      ∃ t, step s = .next t ∧ t.rspValid = true ∧
        t.rsp = { status := .illegalRequest, errInfo := 0, rv := Port.none, rs := 0 }
    ((∀ i, decode s.req.opw ≠ .ok i) → illegal) ∧
    (∀ i, decode s.req.opw = .ok i → (∀ vs, ¬ Accepted i s.req vs) → illegal) ∧
    (∀ i vs k, decode s.req.opw = .ok i → Accepted i s.req vs → FirstBadLane vs k →
      step s = .refused (.unsupported (BitVec.ofNat 32 k)))

/-- Every bool-tagged result is canonical, in every state (R24). -/
def Obligations.ResultsAreCanonical : Prop :=
  ∀ (i : Instr) (s t : State) (v : Vec), exec i s = .next t → t.rsp.rv = v.port → v.Canonical

/-- The fields a response does not use hold RV = NONE, RS = 0, ERR_INFO = 0 (R34), in every state. -/
def Obligations.UnusedResponseFieldsAreFixed : Prop :=
  ∀ (i : Instr) (s t : State), exec i s = .next t →
    t.rspValid = true ∧
    ((t.rsp.status = .ok ∧ t.rsp.errInfo = 0 ∧ t.rsp.rs = 0 ∧ ∃ v : Vec, t.rsp.rv = v.port) ∨
     (t.rsp.status = .ok ∧ t.rsp.errInfo = 0 ∧ t.rsp.rv = Port.none) ∨
     (t.rsp.status ≠ .ok ∧ t.rsp.rv = Port.none ∧ t.rsp.rs = 0))

/-- No instruction changes its operands or anything else the host presents (R25). -/
def Obligations.OperandsAreUnchanged : Prop :=
  ∀ (i : Instr) (s t : State), exec i s = .next t → t.req = s.req ∧ t.inputs = s.inputs

/-- Every step keeps the invariant: the response register holds a legal response, canonical where it is bool-tagged, with
its unused fields fixed, and RSP_VALID is 1 only once a response was written. -/
def Obligations.StepKeepsResponseLegal : Prop :=
  ∀ s t : State, s.Inv → step s = .next t → t.Inv

/-- The invariant holds at reset, with the values the model names for the fields R220 leaves unspecified (log entry 2). -/
def Obligations.ResetResponseLegal : Prop := State.reset.Inv

/-- A port an operation does not name is ignored, whatever it holds (R33): the response, or the refusal, depends on the named
ports and on the number of the draw alone (log entry 5). -/
def Obligations.UnnamedPortsAreIgnored : Prop :=
  ∀ (i : Instr) (s s' : State), AgreeOnPorts i s.req s'.req → s.draws = s'.draws →
    (∀ t, exec i s = .next t → ∃ t', exec i s' = .next t' ∧ t'.rsp = t.rsp) ∧
    (∀ e, exec i s = .refused e → exec i s' = .refused e)

/-- Issuing the same request twice gives the same response, or the same refusal, for every operation whose response holds no
draw (R45). -/
def Obligations.SameRequestSameResponse : Prop :=
  ∀ (i : Instr) (s s' : State), mayDraw i = false → s.req = s'.req →
    (∀ t, exec i s = .next t → ∃ t', exec i s' = .next t' ∧ t'.rsp = t.rsp) ∧
    (∀ e, exec i s = .refused e → exec i s' = .refused e)

/-- A run has one response per request, in the order presented, and what the host reads of each depends on its own request
and draw alone (R46, R226); for an Unsupported one it reads the refusal (R195). The list of what the host presents and the
draw numbers are the model's (log entries 3 and 5), and so is that a run goes on past a refused request (log entry 7). -/
def Obligations.RunAnswersEachRequestInOrder : Prop :=
  ∀ (rs : List Request) (s : State),
    ∃ ds : List Nat, ds.length = (rs.filter (·.reqValid)).length ∧
      outcomesOf rs.length (s.present rs) = List.zipWith answerTo (rs.filter (·.reqValid)) ds

/-- The end state of a run is the list of its responses in order, one per request and none of them Unsupported (R226); a run
with a request that gets Unsupported has none, for the model refuses it (R195). -/
def Obligations.RunEndIsItsResponsesOrRefused : Prop :=
  ∀ (rs : List Request) (s : State),
    ((∀ r ∈ rs, ¬ UnsupportedRequest r) →
      ∃ responses : List Response, s.runEnd rs = .next responses ∧
        responses.length = (rs.filter (·.reqValid)).length ∧ (∀ p ∈ responses, p.Claimable) ∧
        outcomesOf rs.length (s.present rs) = responses.map .next) ∧
    ((∃ r ∈ rs, UnsupportedRequest r) → ∃ info, s.runEnd rs = .refused (.unsupported info))

/-- No error stops the machine (R194): whatever was answered before, a request is answered in one step, or refused as
Unsupported (R195) and then passed, in the model's way (log entry 7): the host reads the refusal and presents its next
request. -/
def Obligations.EveryRequestIsAnswered : Prop :=
  ∀ s : State, s.req.reqValid = true →
    ∃ t, afterCycle s = .next t ∧ t.rspValid = true ∧
      t.req = s.inputs.headD Request.idle ∧ t.inputs = s.inputs.tail ∧
      (step s = .next t ∨
        ∃ info, step s = .refused (.unsupported info) ∧ t.readResponse = .refused (.unsupported info))

/-- With REQ_VALID = 0 nothing is computed and nothing lost: the response fields hold (R206, R222). That RSP_VALID falls is
the model's reading of R222 (log entry 6). -/
def Obligations.IdleCycleHoldsResponse : Prop :=
  ∀ s : State, s.req.reqValid = false →
    step s = .next { s with req := s.inputs.headD Request.idle, inputs := s.inputs.tail, rspValid := false }

/-- On a clocked VALU of any latency (its queue is the model's, log entry 8), the register contents a cycle's request leads
to reach the response register exactly that many cycles later (R222), and are read there as they would be at once. A refused
request is passed as in log entry 7. -/
def Obligations.ResponseArrivesAfterLatency : Prop :=
  ∀ c : Clocked, ∃ d e : Clocked,
    afterCycle c.front = .next d.front ∧ c.tick = .next d ∧
    Clocked.ticks c.onTheWay.length d = .next e ∧ e.visible = d.front.output ∧
    e.visible.readResponse = d.front.readResponse

/-- After reset RSP_VALID is 0 and reading the response fields is a fault (R220). That a running VALU is reset by an
operation on State which leaves what the host presents is the model's choice (log entry 9). -/
def Obligations.ResetInvalidatesResponse : Prop :=
  State.reset.rspValid = false ∧ State.reset.readResponse = .fault .responseNotWritten ∧
  ∀ s : State, s.applyReset.rspValid = false ∧ s.applyReset.readResponse = .fault .responseNotWritten ∧
    s.applyReset.req = s.req ∧ s.applyReset.inputs = s.inputs

/-- A response with STATUS = Unsupported is read as a refusal, any other as itself (R195). -/
def Obligations.UnsupportedIsReadAsRefusal : Prop :=
  ∀ s : State, s.answered = true →
    (s.rsp.status = .unsupported → s.readResponse = .refused (.unsupported s.rsp.errInfo)) ∧
    (s.rsp.Claimable → s.readResponse = .next s.rsp)

/-- No step gives an Unsupported response (R195): a step that takes a request refuses it as Unsupported, or gives a response
with another STATUS, which the host reads as it stands. -/
def Obligations.NoStepAnswersUnsupported : Prop :=
  ∀ s : State, s.req.reqValid = true →
    (∃ info, step s = .refused (.unsupported info)) ∨
    ∃ t, step s = .next t ∧ t.rsp.Claimable ∧ t.readResponse = .next t.rsp
end

