-- ==== Sys2Proof/Laws/Lanes.lean ====
section
/-! SUPPORT. What the lane operations do: a packed lane reads back, and equal lanes make equal bits. -/

namespace Sys2Proof.Machine

theorem laneWidth_mul_laneCount (t : Tag) : laneWidth t * laneCount t = 128 := by cases t <;> rfl

theorem laneWidth_pos (t : Tag) : 0 < laneWidth t := by cases t <;> decide

theorem laneCount_le (t : Tag) : laneCount t ≤ 16 := by cases t <;> decide

@[simp] theorem laneWidth_boolTag (t : Tag) : laneWidth (boolTag t) = laneWidth t := by cases t <;> rfl

@[simp] theorem laneCount_boolTag (t : Tag) : laneCount (boolTag t) = laneCount t := by cases t <;> rfl

@[simp] theorem category_boolTag (t : Tag) : category (boolTag t) = .bool := by cases t <;> rfl

theorem category_float_iff (t : Tag) : category t = .float ↔ t = .float32x4 := by cases t <;> decide

theorem getLsbD_lane (w i j : Nat) (v : Bits) :
    (lane w v i).getLsbD j = (decide (j < w) && v.getLsbD (w * i + j)) := by
  simp [lane]

/-- Bit j of packed lanes is bit j % w of lane j / w. -/
theorem getLsbD_packLanes {w : Nat} (hw : 0 < w) (f : Nat → BitVec w) (n j : Nat) (hn : w * n ≤ 128) :
    (packLanes w f n).getLsbD j = (decide (j < w * n) && (f (j / w)).getLsbD (j % w)) := by
  induction n with
  | zero => simp [packLanes]
  | succ n ih =>
    have hle : w * n ≤ 128 := by rw [Nat.mul_succ] at hn; omega
    rw [Nat.mul_succ] at hn ⊢
    simp only [packLanes, BitVec.getLsbD_or, ih hle, BitVec.getLsbD_shiftLeft, BitVec.getLsbD_setWidth]
    by_cases h1 : j < w * n
    · simp [h1, Nat.lt_of_lt_of_le h1 (Nat.le_add_right _ _)]
    · by_cases h2 : j < w * n + w
      · have hdiv : j / w = n :=
          Nat.div_eq_of_lt_le (by rw [Nat.mul_comm]; omega) (by rw [Nat.succ_mul, Nat.mul_comm]; omega)
        have hmod : j % w = j - w * n := by rw [Nat.mod_def, hdiv]
        have h3 : j < 128 := by omega
        have h4 : j - w * n < 128 := by omega
        simp [h1, h2, hdiv, hmod, h3, h4]
      · have : (f n).getLsbD (j - w * n) = false := BitVec.getLsbD_of_ge _ _ (by omega)
        simp [h1, h2, this]

theorem lane_packLanes {w : Nat} (f : Nat → BitVec w) {n i : Nat} (hn : w * n ≤ 128) (hi : i < n) :
    lane w (packLanes w f n) i = f i := by
  rcases Nat.eq_zero_or_pos w with rfl | hw
  · exact Subsingleton.elim _ _
  apply BitVec.eq_of_getLsbD_eq
  intro j hj
  have h1 : (w * i + j) / w = i := by rw [Nat.mul_add_div hw, Nat.div_eq_of_lt hj, Nat.add_zero]
  have h2 : (w * i + j) % w = j := by rw [Nat.mul_add_mod, Nat.mod_eq_of_lt hj]
  have h3 : w * i + j < w * n := by
    calc w * i + j < w * i + w := by omega
      _ = w * (i + 1) := by ring
      _ ≤ w * n := Nat.mul_le_mul_left _ hi
  rw [getLsbD_lane, getLsbD_packLanes hw f n _ hn, h1, h2]
  simp [hj, h3]

/-- Values whose lanes agree have the same bits. -/
theorem bits_eq_of_lanes {w n : Nat} (hn : w * n = 128) {u v : Bits}
    (h : ∀ i < n, lane w u i = lane w v i) : u = v := by
  have hw : 0 < w := by rcases Nat.eq_zero_or_pos w with rfl | h; · simp at hn
                        · exact h
  apply BitVec.eq_of_getLsbD_eq
  intro j hj
  have hi : j / w < n := Nat.div_lt_of_lt_mul (by omega)
  have hb := congrArg (fun x => BitVec.getLsbD x (j % w)) (h (j / w) hi)
  simp only [getLsbD_lane, Nat.mod_lt _ hw, Nat.div_add_mod, decide_true, Bool.true_and] at hb
  exact hb

theorem packLanes_lane {w n : Nat} (hn : w * n = 128) (v : Bits) : packLanes w (lane w v) n = v :=
  bits_eq_of_lanes hn fun _ hi => lane_packLanes _ (Nat.le_of_eq hn) hi

@[simp] theorem mkVec_tag (t : Tag) (f : Nat → BitVec (laneWidth t)) : (mkVec t f).tag = t := rfl

@[simp] theorem mkFloatVec_tag (f : Nat → Word) : (mkFloatVec f).tag = .float32x4 := rfl

@[simp] theorem mkBoolVec_tag (t : Tag) (p : Nat → Bool) : (mkBoolVec t p).tag = boolTag t := rfl

@[simp] theorem port_tag (v : Vec) : v.port.tag = some v.tag := rfl

@[simp] theorem port_bits (v : Vec) : v.port.bits = v.bits := rfl

theorem lane_mkVec (t : Tag) (f : Nat → BitVec (laneWidth t)) {i : Nat} (hi : i < laneCount t) :
    lane (laneWidth t) (mkVec t f).bits i = f i :=
  lane_packLanes f (Nat.le_of_eq (laneWidth_mul_laneCount t)) hi

theorem lane_mkFloatVec (f : Nat → Word) {i : Nat} (hi : i < 4) : lane 32 (mkFloatVec f).bits i = f i :=
  lane_packLanes f (by decide) hi

theorem lane_mkBoolVec (t : Tag) (p : Nat → Bool) {i : Nat} (hi : i < laneCount t) :
    lane (laneWidth (boolTag t)) (mkBoolVec t p).bits i = boolLane (laneWidth (boolTag t)) (p i) :=
  lane_mkVec (boolTag t) _ (by simpa using hi)

theorem boolLane_cases (w : Nat) (b : Bool) : boolLane w b = 0 ∨ boolLane w b = BitVec.allOnes w := by
  cases b <;> simp [boolLane]

theorem lowest_eq_none {p : Nat → Bool} {n : Nat} : lowest p n = none ↔ ∀ i < n, p i = false := by
  simp [lowest]

theorem lowest_eq_some {p : Nat → Bool} {n i : Nat} :
    lowest p n = some i ↔ i < n ∧ p i = true ∧ ∀ j < i, p j = false := by
  simp only [lowest, List.find?_range_eq_some]
  simp
  tauto

/-- The canonical-bool check finds nothing exactly on canonical values (R24). -/
theorem badBoolLane_eq_none {v : Vec} : badBoolLane v = none ↔ v.Canonical := by
  unfold badBoolLane Vec.Canonical
  split <;> rename_i h <;> simp [h, lowest_eq_none, nonCanonicalLane, Vec.lane]
  grind

/-- The canonical-bool check finds the lowest non-canonical lane (R55). -/
theorem badBoolLane_eq_some {v : Vec} {k : Nat} :
    badBoolLane v = some k ↔
      category v.tag = .bool ∧ k < laneCount v.tag ∧
        (v.lane k ≠ 0 ∧ v.lane k ≠ BitVec.allOnes (laneWidth v.tag)) ∧
        ∀ j < k, v.lane j = 0 ∨ v.lane j = BitVec.allOnes (laneWidth v.tag) := by
  unfold badBoolLane
  split <;> rename_i h <;> simp [h, lowest_eq_some, nonCanonicalLane, Vec.lane]
  grind

theorem canonical_of_not_bool {v : Vec} (h : category v.tag ≠ .bool) : v.Canonical := fun hb => absurd hb h

theorem canonical_mkVec {t : Tag} {f : Nat → BitVec (laneWidth t)}
    (h : category t = .bool → ∀ i < laneCount t, f i = 0 ∨ f i = BitVec.allOnes (laneWidth t)) :
    (mkVec t f).Canonical := by
  intro hb i hi
  have hl : (mkVec t f).lane i = f i := lane_mkVec t f hi
  rw [hl]
  exact h hb i hi

theorem canonical_mkBoolVec (t : Tag) (p : Nat → Bool) : (mkBoolVec t p).Canonical :=
  canonical_mkVec fun _ _ _ => boolLane_cases _ _

theorem canonical_mkFloatVec (f : Nat → Word) : (mkFloatVec f).Canonical :=
  canonical_of_not_bool (by simp [category])

theorem lane_and (w : Nat) (u v : Bits) (i : Nat) : lane w (u &&& v) i = lane w u i &&& lane w v i := by
  apply BitVec.eq_of_getLsbD_eq
  intro j hj
  simp [lane, hj]

theorem lane_or (w : Nat) (u v : Bits) (i : Nat) : lane w (u ||| v) i = lane w u i ||| lane w v i := by
  apply BitVec.eq_of_getLsbD_eq
  intro j hj
  simp [lane, hj]

theorem lane_xor (w : Nat) (u v : Bits) (i : Nat) : lane w (u ^^^ v) i = lane w u i ^^^ lane w v i := by
  apply BitVec.eq_of_getLsbD_eq
  intro j hj
  simp [lane, hj]

theorem lane_end_le (t : Tag) {i : Nat} (h : i < laneCount t) : laneWidth t * i + laneWidth t ≤ 128 := by
  calc laneWidth t * i + laneWidth t = laneWidth t * (i + 1) := by ring
    _ ≤ laneWidth t * laneCount t := Nat.mul_le_mul_left _ h
    _ = 128 := laneWidth_mul_laneCount t

theorem lane_not (w : Nat) (u : Bits) {i : Nat} (h : w * i + w ≤ 128) : lane w (~~~u) i = ~~~lane w u i := by
  apply BitVec.eq_of_getLsbD_eq
  intro j hj
  simp [lane, hj]
  omega

end Sys2Proof.Machine
end

