-- ==== Sys2Proof/Laws/State.lean ====
section
/-! SUPPORT. One lemma per field per update of State. -/

namespace Sys2Proof.Machine

section Updates
variable (s : State) (r : Response) (e : RequestError) (info : Word) (nbits w : Nat)

@[simp] theorem writeResponse_req : (s.writeResponse r).req = s.req := rfl
@[simp] theorem writeResponse_inputs : (s.writeResponse r).inputs = s.inputs := rfl
@[simp] theorem writeResponse_rspValid : (s.writeResponse r).rspValid = true := rfl
@[simp] theorem writeResponse_rsp : (s.writeResponse r).rsp = r := rfl
@[simp] theorem writeResponse_answered : (s.writeResponse r).answered = true := rfl
@[simp] theorem writeResponse_draws : (s.writeResponse r).draws = s.draws + 1 := rfl

@[simp] theorem raiseError_eq : s.raiseError e = s.writeResponse (raise e) := rfl

@[simp] theorem idleCycle_req : s.idleCycle.req = s.req := rfl
@[simp] theorem idleCycle_inputs : s.idleCycle.inputs = s.inputs := rfl
@[simp] theorem idleCycle_rspValid : s.idleCycle.rspValid = false := rfl
@[simp] theorem idleCycle_rsp : s.idleCycle.rsp = s.rsp := rfl
@[simp] theorem idleCycle_answered : s.idleCycle.answered = s.answered := rfl
@[simp] theorem idleCycle_draws : s.idleCycle.draws = s.draws := rfl

@[simp] theorem nextInputs_req : s.nextInputs.req = s.inputs.headD Request.idle := by
  unfold State.nextInputs; split <;> simp_all

@[simp] theorem nextInputs_inputs : s.nextInputs.inputs = s.inputs.tail := by
  unfold State.nextInputs; split <;> simp_all

@[simp] theorem nextInputs_rspValid : s.nextInputs.rspValid = s.rspValid := by
  unfold State.nextInputs; split <;> rfl

@[simp] theorem nextInputs_rsp : s.nextInputs.rsp = s.rsp := by
  unfold State.nextInputs; split <;> rfl

@[simp] theorem nextInputs_answered : s.nextInputs.answered = s.answered := by
  unfold State.nextInputs; split <;> rfl

@[simp] theorem nextInputs_draws : s.nextInputs.draws = s.draws := by
  unfold State.nextInputs; split <;> rfl

@[simp] theorem passUnsupported_req : (s.passUnsupported info).req = s.inputs.headD Request.idle := by
  simp [State.passUnsupported]

@[simp] theorem passUnsupported_inputs : (s.passUnsupported info).inputs = s.inputs.tail := by
  simp [State.passUnsupported]

@[simp] theorem passUnsupported_rspValid : (s.passUnsupported info).rspValid = true := by
  simp [State.passUnsupported]

@[simp] theorem passUnsupported_rsp : (s.passUnsupported info).rsp = raise (.unsupported info) := by
  simp [State.passUnsupported]

@[simp] theorem passUnsupported_answered : (s.passUnsupported info).answered = true := by
  simp [State.passUnsupported]

@[simp] theorem passUnsupported_draws : (s.passUnsupported info).draws = s.draws + 1 := by
  simp [State.passUnsupported]

@[simp] theorem present_req (rs : List Request) : (s.present rs).req = rs.headD Request.idle := by
  simp [State.present]

@[simp] theorem present_inputs (rs : List Request) : (s.present rs).inputs = rs.tail := by
  simp [State.present]

@[simp] theorem present_draws (rs : List Request) : (s.present rs).draws = s.draws := by
  simp [State.present]

@[simp] theorem applyReset_req : s.applyReset.req = s.req := rfl
@[simp] theorem applyReset_inputs : s.applyReset.inputs = s.inputs := rfl
@[simp] theorem applyReset_rspValid : s.applyReset.rspValid = false := rfl
@[simp] theorem applyReset_answered : s.applyReset.answered = false := rfl
@[simp] theorem applyReset_draws : s.applyReset.draws = s.draws := rfl

@[simp] theorem withFetchWord_reqValid : (s.withFetchWord nbits w).req.reqValid = true := rfl
@[simp] theorem withFetchWord_opw : (s.withFetchWord nbits w).req.opw = BitVec.ofNat 32 (w % 2 ^ nbits) := rfl
@[simp] theorem withFetchWord_a : (s.withFetchWord nbits w).req.a = s.req.a := rfl
@[simp] theorem withFetchWord_b : (s.withFetchWord nbits w).req.b = s.req.b := rfl
@[simp] theorem withFetchWord_m : (s.withFetchWord nbits w).req.m = s.req.m := rfl
@[simp] theorem withFetchWord_inputs : (s.withFetchWord nbits w).inputs = s.inputs := rfl
@[simp] theorem withFetchWord_rsp : (s.withFetchWord nbits w).rsp = s.rsp := rfl
@[simp] theorem withFetchWord_rspValid : (s.withFetchWord nbits w).rspValid = s.rspValid := rfl
@[simp] theorem withFetchWord_answered : (s.withFetchWord nbits w).answered = s.answered := rfl
@[simp] theorem withFetchWord_draws : (s.withFetchWord nbits w).draws = s.draws := rfl

end Updates

end Sys2Proof.Machine
end

