-- ==== Sys2Proof/Laws/Operands.lean ====
section
/-! SUPPORT. What each port check does, that every instruction answers or is refused, and the operands each operand form takes when its checks pass (spec/30_encoding.md R54 to R56). -/

namespace Sys2Proof.Machine

theorem takePort_ok {p : Port} {accepts : Tag → Bool} {v : Vec} :
    takePort p accepts = .ok v ↔ p = v.port ∧ accepts v.tag = true := by
  obtain ⟨tag, bits⟩ := p
  obtain ⟨vt, vb⟩ := v
  cases tag with
  | none => simp [takePort, Vec.port]
  | some t => by_cases h : accepts t <;> simp [takePort, Vec.port, h] <;> grind

theorem takePort_error {p : Port} {accepts : Tag → Bool} {e : RequestError} :
    takePort p accepts = .error e ↔ e = .illegalRequest ∧ ∀ v : Vec, p = v.port → accepts v.tag = false := by
  obtain ⟨tag, bits⟩ := p
  cases tag with
  | none => simp [takePort, Vec.port, eq_comm (a := e)]
  | some t =>
    by_cases h : accepts t
    · simp only [takePort, h, if_true, reduceCtorEq, false_iff, not_and]
      intro _ h'
      simpa [h] using h' ⟨t, bits⟩ rfl
    · simp only [takePort, Vec.port, h, Bool.false_eq_true, if_false, Except.error.injEq, eq_comm (a := e)]
      constructor
      · rintro rfl
        exact ⟨rfl, fun v hv => by simp_all⟩
      · exact fun h' => h'.1

theorem takePort_port {v : Vec} {accepts : Tag → Bool} (h : accepts v.tag = true) :
    takePort v.port accepts = .ok v := takePort_ok.2 ⟨rfl, h⟩

theorem takePort_any (v : Vec) : takePort v.port anyTag = .ok v := takePort_port rfl

theorem checkCanonical_of_canonical {v : Vec} (h : v.Canonical) : checkCanonical v = .ok () := by
  rw [← badBoolLane_eq_none] at h
  simp [checkCanonical, h]

theorem checkCount_ok {n : Word} {t : Tag} (h : n.toNat = laneCount t) : checkCount n t = .ok () := by
  simp [checkCount, h]

/-- A reply other than Unsupported is the response, and the rest of the state is kept. -/
theorem answer_eq_next {r : Reply} (s : State) (h : (responseOf r).status ≠ .unsupported) :
    s.answer r = .next { s with rspValid := true, rsp := responseOf r, answered := true, draws := s.draws + 1 } := by
  rcases r with e | x
  · cases e <;> first | rfl | exact absurd rfl h
  · rfl

/-- Unsupported is refused. -/
theorem answer_eq_refused {r : Reply} (s : State) (h : (responseOf r).status = .unsupported) :
    s.answer r = .refused (.unsupported (responseOf r).errInfo) := by
  rcases r with e | x
  · cases e <;> first | rfl | cases h
  · cases x <;> cases h

/-- All that answering can do. -/
theorem answer_cases (s : State) (r : Reply) :
    ((responseOf r).status ≠ .unsupported ∧ s.answer r = .next (s.writeResponse (responseOf r))) ∨
    ∃ info, r = .error (.unsupported info) ∧ s.answer r = .refused (.unsupported info) := by
  rcases r with e | x
  · cases e with
    | unsupported info => exact .inr ⟨info, rfl, rfl⟩
    | _ => exact .inl ⟨by simp [responseOf, raise, errorStatus], rfl⟩
  · exact .inl ⟨by cases x <;> simp [responseOf, respondVec, respondScalar], rfl⟩

/-- Every instruction answers some reply: it does nothing but write the response register, or is refused. -/
theorem exec_eq_answer (i : Instr) (s : State) : ∃ r : Reply, exec i s = s.answer r := by
  cases i <;> exact ⟨_, rfl⟩

theorem unary_ok {r : Request} {a : Vec} {accepts : Tag → Bool} (ha : r.a = a.port) (ht : accepts a.tag = true)
    (hc : a.Canonical) : r.unary accepts = .ok a := by
  simp [Request.unary, ha, takePort_port ht, checkCanonical_of_canonical hc, bind, Except.bind, pure, Except.pure]

theorem binary_ok {r : Request} {a b : Vec} {accepts : Tag → Bool} (ha : r.a = a.port) (ht : accepts a.tag = true)
    (hb : r.b = b.port) (hab : b.tag = a.tag) (hca : a.Canonical) (hcb : b.Canonical) :
    r.binary accepts = .ok (a, b) := by
  have h : takePort r.b (· == a.tag) = .ok b := takePort_ok.2 ⟨hb, by simp [hab]⟩
  simp [Request.binary, ha, takePort_port ht, h, checkCanonical_of_canonical hca, checkCanonical_of_canonical hcb,
    bind, Except.bind, pure, Except.pure]

theorem anyPair_ok {r : Request} {a b : Vec} (ha : r.a = a.port) (hb : r.b = b.port) (hca : a.Canonical)
    (hcb : b.Canonical) : r.anyPair = .ok (a, b) := by
  simp [Request.anyPair, ha, hb, takePort_any, checkCanonical_of_canonical hca,
    checkCanonical_of_canonical hcb, bind, Except.bind, pure, Except.pure]

theorem counted_ok {r : Request} {a : Vec} (ha : r.a = a.port) (hn : r.n.toNat = laneCount a.tag)
    (hca : a.Canonical) : r.counted = .ok a := by
  simp [Request.counted, ha, takePort_any, checkCount_ok hn, checkCanonical_of_canonical hca,
    bind, Except.bind, pure, Except.pure]

theorem countedPair_ok {r : Request} {a b : Vec} (ha : r.a = a.port) (hb : r.b = b.port) (hab : b.tag = a.tag)
    (hn : r.n.toNat = laneCount a.tag) (hca : a.Canonical) (hcb : b.Canonical) :
    r.countedPair = .ok (a, b) := by
  have h : takePort r.b (· == a.tag) = .ok b := takePort_ok.2 ⟨hb, by simp [hab]⟩
  simp [Request.countedPair, ha, takePort_any, h, checkCount_ok hn, checkCanonical_of_canonical hca,
    checkCanonical_of_canonical hcb, bind, Except.bind, pure, Except.pure]

theorem masked_ok {r : Request} {a b m : Vec} (ha : r.a = a.port) (hb : r.b = b.port) (hab : b.tag = a.tag)
    (hm : r.m = m.port) (hmt : m.tag = boolTag a.tag) (hca : a.Canonical) (hcb : b.Canonical) (hcm : m.Canonical) :
    r.masked = .ok (a, b, m) := by
  have h : takePort r.b (· == a.tag) = .ok b := takePort_ok.2 ⟨hb, by simp [hab]⟩
  have h' : takePort r.m (· == boolTag a.tag) = .ok m := takePort_ok.2 ⟨hm, by simp [hmt]⟩
  simp [Request.masked, ha, takePort_any, h, h', checkCanonical_of_canonical hca,
    checkCanonical_of_canonical hcb, checkCanonical_of_canonical hcm, bind, Except.bind, pure, Except.pure]

end Sys2Proof.Machine
end

