-- ==== Sys2Proof/Laws/Answers.lean ====
section
/-! SUPPORT. From what an instruction's rule computes to what the instruction answers, said once for every instruction. -/

namespace Sys2Proof.Machine

theorem answers_of_reply {i : Instr} {s : State} {reply : Reply} {r : Response}
    (h : exec i s = s.answer reply) (hr : responseOf reply = r) (hs : r.status ≠ .unsupported) :
    Answers i s r := by
  subst hr
  exact ⟨s.draws + 1, by rw [h, answer_eq_next s hs]⟩

theorem answersScalar_of_reply {i : Instr} {s : State} {x : Word} (h : exec i s = s.answer (.ok (.scalar x))) :
    AnswersScalar i s x := answers_of_reply h rfl (by simp)

theorem answersError_of_reply {i : Instr} {s : State} {e : RequestError} (h : exec i s = s.answer (.error e))
    (he : errorStatus e ≠ .unsupported) : AnswersError i s (errorStatus e) (errorInfo e) := answers_of_reply h rfl he

theorem answersVec_of_lanes {i : Instr} {s : State} {t : Tag} {f : Nat → BitVec (laneWidth t)}
    {P : Nat → BitVec (laneWidth t) → Prop} (h : exec i s = s.answer (.ok (.vec (mkVec t f))))
    (hP : ∀ k < laneCount t, P k (f k)) : AnswersVec i s t P :=
  ⟨(mkVec t f).bits, answers_of_reply h rfl (by simp), fun k hk => by rw [lane_mkVec _ _ hk]; exact hP k hk⟩

theorem answersFloats_of_lanes {i : Instr} {s : State} {f : Nat → Word} {P : Nat → Word → Prop}
    (h : exec i s = s.answer (.ok (.vec (mkFloatVec f)))) (hP : ∀ k < 4, P k (f k)) : AnswersFloats i s P :=
  ⟨(mkFloatVec f).bits, answers_of_reply h rfl (by simp), fun k hk => by rw [lane_mkFloatVec _ hk]; exact hP k hk⟩

end Sys2Proof.Machine
end

