-- ==== Sys2Proof/Laws/Checks.lean ====
section
/-! SUPPORT. What the operand forms answer where a check fails, and what has been checked where they succeed (spec/30_encoding.md R54 to R56). -/

namespace Sys2Proof.Machine

theorem takePort_cases (p : Port) (accepts : Tag → Bool) :
    (∃ v : Vec, p = v.port ∧ accepts v.tag = true ∧ takePort p accepts = .ok v) ∨
    takePort p accepts = .error .illegalRequest := by
  cases h : takePort p accepts with
  | ok v => exact .inl ⟨v, (takePort_ok.1 h).1, (takePort_ok.1 h).2, rfl⟩
  | error e => exact .inr (by rw [(takePort_error.1 h).1])

theorem checkCount_of_ne {n : Word} {t : Tag} (h : n.toNat ≠ laneCount t) : checkCount n t = .error .illegalRequest := by
  simp [checkCount, h]

theorem unary_illegal {r : Request} {accepts : Tag → Bool} (h : ∀ a : Vec, r.a = a.port → accepts a.tag = false) :
    r.unary accepts = .error .illegalRequest := by
  have h' : takePort r.a accepts = .error .illegalRequest := takePort_error.2 ⟨rfl, h⟩
  simp [Request.unary, h', bind, Except.bind]

theorem binary_illegal {r : Request} {accepts : Tag → Bool}
    (h : ∀ a b : Vec, r.a = a.port → r.b = b.port → accepts a.tag = true → b.tag ≠ a.tag) :
    r.binary accepts = .error .illegalRequest := by
  rcases takePort_cases r.a accepts with ⟨a, ha, hat, hra⟩ | ha
  · rcases takePort_cases r.b (· == a.tag) with ⟨b, hb, hbt, _⟩ | hb
    · exact absurd (by simpa using hbt) (h a b ha hb hat)
    · simp [Request.binary, hra, hb, bind, Except.bind]
  · simp [Request.binary, ha, bind, Except.bind]

theorem anyPair_illegal {r : Request} (h : ∀ a b : Vec, r.a = a.port → r.b ≠ b.port) :
    r.anyPair = .error .illegalRequest := by
  rcases takePort_cases r.a anyTag with ⟨a, ha, _, hra⟩ | ha
  · rcases takePort_cases r.b anyTag with ⟨b, hb, _, _⟩ | hb
    · exact absurd hb (h a b ha)
    · simp [Request.anyPair, hra, hb, bind, Except.bind]
  · simp [Request.anyPair, ha, bind, Except.bind]

theorem checkCanonical_of_bad {v : Vec} {k : Nat} (h : badBoolLane v = some k) :
    checkCanonical v = .error (.unsupported (BitVec.ofNat 32 k)) := by
  simp [checkCanonical, h]

theorem canonical_of_checkCanonical {v : Vec} {u : Unit} (h : checkCanonical v = .ok u) : v.Canonical := by
  cases hb : badBoolLane v with
  | none => exact badBoolLane_eq_none.1 hb
  | some k => rw [checkCanonical_of_bad hb] at h; cases h

theorem firstBadLane_cons {v : Vec} {vs : List Vec} {k : Nat} :
    FirstBadLane (v :: vs) k ↔ badBoolLane v = some k ∨ (v.Canonical ∧ FirstBadLane vs k) := by
  rw [FirstBadLane, badBoolLane_eq_some]

theorem unary_unsupported {r : Request} {accepts : Tag → Bool} {a : Vec} {k : Nat} (ha : r.a = a.port)
    (ht : accepts a.tag = true) (h : FirstBadLane [a] k) :
    r.unary accepts = .error (.unsupported (BitVec.ofNat 32 k)) := by
  rcases firstBadLane_cons.1 h with h | ⟨_, h⟩
  · simp [Request.unary, ha, takePort_port ht, checkCanonical_of_bad h, bind, Except.bind]
  · exact h.elim

theorem binary_unsupported {r : Request} {accepts : Tag → Bool} {a b : Vec} {k : Nat} (ha : r.a = a.port)
    (ht : accepts a.tag = true) (hb : r.b = b.port) (hab : b.tag = a.tag) (h : FirstBadLane [a, b] k) :
    r.binary accepts = .error (.unsupported (BitVec.ofNat 32 k)) := by
  have h' : takePort r.b (· == a.tag) = .ok b := takePort_ok.2 ⟨hb, by simp [hab]⟩
  rcases firstBadLane_cons.1 h with h | ⟨hc, h⟩
  · simp [Request.binary, ha, takePort_port ht, h', checkCanonical_of_bad h, bind, Except.bind]
  · rcases firstBadLane_cons.1 h with h | ⟨_, h⟩
    · simp [Request.binary, ha, takePort_port ht, h', checkCanonical_of_bad h, checkCanonical_of_canonical hc,
        bind, Except.bind]
    · exact h.elim

theorem anyPair_unsupported {r : Request} {a b : Vec} {k : Nat} (ha : r.a = a.port) (hb : r.b = b.port)
    (h : FirstBadLane [a, b] k) : r.anyPair = .error (.unsupported (BitVec.ofNat 32 k)) := by
  rcases firstBadLane_cons.1 h with h | ⟨hc, h⟩
  · simp [Request.anyPair, ha, hb, takePort_any, checkCanonical_of_bad h, bind, Except.bind]
  · rcases firstBadLane_cons.1 h with h | ⟨_, h⟩
    · simp [Request.anyPair, ha, hb, takePort_any, checkCanonical_of_bad h, checkCanonical_of_canonical hc,
        bind, Except.bind]
    · exact h.elim

/-- Peeling one check off an operand form or a rule. -/
theorem bind_eq_ok {α β : Type} {x : Except RequestError α} {f : α → Except RequestError β} {b : β}
    (h : (x >>= f) = .ok b) : ∃ a, x = .ok a ∧ f a = .ok b := by
  cases x with
  | error e => cases h
  | ok a => exact ⟨a, rfl, h⟩

theorem unary_checked {r : Request} {accepts : Tag → Bool} {a : Vec} (h : r.unary accepts = .ok a) :
    a.Canonical ∧ accepts a.tag = true := by
  obtain ⟨_, h1, h⟩ := bind_eq_ok h
  obtain ⟨_, h2, h⟩ := bind_eq_ok h
  cases h
  exact ⟨canonical_of_checkCanonical h2, (takePort_ok.1 h1).2⟩

theorem binary_checked {r : Request} {accepts : Tag → Bool} {a b : Vec} (h : r.binary accepts = .ok (a, b)) :
    a.Canonical ∧ b.Canonical ∧ b.tag = a.tag ∧ accepts a.tag = true := by
  obtain ⟨_, h1, h⟩ := bind_eq_ok h
  obtain ⟨_, h2, h⟩ := bind_eq_ok h
  obtain ⟨_, h3, h⟩ := bind_eq_ok h
  obtain ⟨_, h4, h⟩ := bind_eq_ok h
  cases h
  exact ⟨canonical_of_checkCanonical h3, canonical_of_checkCanonical h4, by simpa using (takePort_ok.1 h2).2,
    (takePort_ok.1 h1).2⟩

theorem counted_checked {r : Request} {a : Vec} (h : r.counted = .ok a) : a.Canonical := by
  obtain ⟨_, _, h⟩ := bind_eq_ok h
  obtain ⟨_, _, h⟩ := bind_eq_ok h
  obtain ⟨_, h3, h⟩ := bind_eq_ok h
  cases h
  exact canonical_of_checkCanonical h3

theorem countedPair_checked {r : Request} {a b : Vec} (h : r.countedPair = .ok (a, b)) :
    a.Canonical ∧ b.Canonical ∧ b.tag = a.tag := by
  obtain ⟨_, _, h⟩ := bind_eq_ok h
  obtain ⟨_, h2, h⟩ := bind_eq_ok h
  obtain ⟨_, _, h⟩ := bind_eq_ok h
  obtain ⟨_, h3, h⟩ := bind_eq_ok h
  obtain ⟨_, h4, h⟩ := bind_eq_ok h
  cases h
  exact ⟨canonical_of_checkCanonical h3, canonical_of_checkCanonical h4, by simpa using (takePort_ok.1 h2).2⟩

theorem masked_checked {r : Request} {a b m : Vec} (h : r.masked = .ok (a, b, m)) :
    a.Canonical ∧ b.Canonical ∧ m.Canonical ∧ b.tag = a.tag ∧ m.tag = boolTag a.tag := by
  obtain ⟨_, _, h⟩ := bind_eq_ok h
  obtain ⟨_, h2, h⟩ := bind_eq_ok h
  obtain ⟨_, h3, h⟩ := bind_eq_ok h
  obtain ⟨_, h4, h⟩ := bind_eq_ok h
  obtain ⟨_, h5, h⟩ := bind_eq_ok h
  obtain ⟨_, h6, h⟩ := bind_eq_ok h
  cases h
  exact ⟨canonical_of_checkCanonical h4, canonical_of_checkCanonical h5, canonical_of_checkCanonical h6,
    by simpa using (takePort_ok.1 h2).2, by simpa using (takePort_ok.1 h3).2⟩

end Sys2Proof.Machine
end

