-- ==== Sys2Proof/Laws/Float.lean ====
section
/-! SUPPORT. The fields of a binary32 pattern as arithmetic, and what `mkFloat`, `roundPattern` and `isqrt` build. -/

namespace Sys2Proof.Machine

theorem expField_eq (f : Word) : expField f = f.toNat / 2 ^ 23 % 256 := by
  simp [expField, BitVec.extractLsb'_toNat, Nat.shiftRight_eq_div_pow]

theorem fracField_eq (f : Word) : fracField f = f.toNat % 2 ^ 23 := by
  simp [fracField, BitVec.extractLsb'_toNat]

theorem signBit_eq (f : Word) : signBit f = decide (2 ^ 31 ≤ f.toNat) := by
  simp [signBit, BitVec.msb_eq_decide]

theorem isZero_iff (f : Word) : isZero f = true ↔ f.toNat % 2 ^ 31 = 0 := by
  simp [isZero, ← BitVec.toNat_inj, BitVec.extractLsb'_toNat]

theorem mkFloat_toNat (s : Bool) {p : Nat} (h : p < 2 ^ 31) : (mkFloat s p).toNat = p + if s then 2 ^ 31 else 0 := by
  cases s <;> simp [mkFloat] <;> omega

theorem signBit_mkFloat (s : Bool) {p : Nat} (h : p < 2 ^ 31) : signBit (mkFloat s p) = s := by
  rw [signBit_eq, mkFloat_toNat s h]
  cases s <;> simp
  omega

theorem expField_mkFloat (s : Bool) {p : Nat} (h : p < 2 ^ 31) : expField (mkFloat s p) = p / 2 ^ 23 := by
  rw [expField_eq, mkFloat_toNat s h]
  cases s <;> simp <;> omega

theorem fracField_mkFloat (s : Bool) {p : Nat} (h : p < 2 ^ 31) : fracField (mkFloat s p) = p % 2 ^ 23 := by
  rw [fracField_eq, mkFloat_toNat s h]
  cases s <;> simp
  omega

theorem isNaN_nanResult (draw i : Nat) (op : FloatOp) (a b : Word) : isNaN (nanResult draw i op a b) = true := by
  have h := (Config.nanPayload draw i op a b).isLt
  rw [isNaN, nanResult, expField_mkFloat _ (by omega), fracField_mkFloat _ (by omega)]
  simp
  omega

theorem roundPattern_le (num den : Nat) : roundPattern num den ≤ infPattern := Nat.min_le_right _ _

theorem fracField_lt (f : Word) : fracField f < 2 ^ 23 := by rw [fracField_eq]; omega

theorem magnitude_eq_zero_iff (f : Word) : magnitude f = 0 ↔ isZero f = true := by
  rw [isZero_iff, magnitude, expField_eq, fracField_eq]
  split
  · omega
  · have : 0 < 2 ^ (f.toNat / 2 ^ 23 % 256 - 1) := Nat.pow_pos (by omega)
    simp
    omega

/-- The pattern k * 2^23 + q stands for q * 2^k, also where q is 2^24 and carries into the exponent. -/
theorem magnitude_mkFloat (s : Bool) {k q : Nat} (hq : q ≤ 2 ^ 24) (hk : k = 0 ∨ 2 ^ 23 ≤ q)
    (h : k * 2 ^ 23 + q < 2 ^ 31) : magnitude (mkFloat s (k * 2 ^ 23 + q)) = q * 2 ^ k := by
  rw [magnitude, expField_mkFloat s h, fracField_mkFloat s h]
  by_cases h1 : q < 2 ^ 23
  · obtain rfl : k = 0 := by omega
    rw [if_pos (by omega)]
    simp
    omega
  by_cases h2 : q < 2 ^ 24
  · rw [if_neg (by omega), show (k * 2 ^ 23 + q) / 2 ^ 23 - 1 = k by omega,
      show 2 ^ 23 + (k * 2 ^ 23 + q) % 2 ^ 23 = q by omega]
  · obtain rfl : q = 2 ^ 24 := by omega
    rw [if_neg (by omega), show (k * 2 ^ 23 + 2 ^ 24) / 2 ^ 23 - 1 = k + 1 by omega,
      show 2 ^ 23 + (k * 2 ^ 23 + 2 ^ 24) % 2 ^ 23 = 2 ^ 23 by omega, pow_succ]
    ring

/-- The value of a pattern is a multiple of 2^k, or lies below 2^(23+k). -/
theorem magnitude_shape (f : Word) (k : Nat) : (∃ m, magnitude f = m * 2 ^ k) ∨ magnitude f < 2 ^ (23 + k) := by
  rw [magnitude]
  split
  · by_cases h : k = 0
    · subst h
      exact .inl ⟨_, by simp; rfl⟩
    · have := fracField_lt f
      have : 2 ^ 23 ≤ 2 ^ (23 + k) := Nat.pow_le_pow_right (by omega) (by omega)
      exact .inr (by omega)
  · by_cases h : k ≤ expField f - 1
    · refine .inl ⟨(2 ^ 23 + fracField f) * 2 ^ (expField f - 1 - k), ?_⟩
      rw [mul_assoc, ← pow_add, Nat.sub_add_cancel h]
    · refine .inr ?_
      calc (2 ^ 23 + fracField f) * 2 ^ (expField f - 1) < 2 ^ 24 * 2 ^ (expField f - 1) :=
            Nat.mul_lt_mul_of_pos_right (by have := fracField_lt f; omega) (Nat.pow_pos (by omega))
        _ = 2 ^ (24 + (expField f - 1)) := by rw [pow_add]
        _ ≤ _ := Nat.pow_le_pow_right (by omega) (by omega)

theorem isqrtFrom_bounds (n k r : Nat) (h1 : r * r ≤ n) (h2 : n < (r + 2 ^ k) * (r + 2 ^ k)) :
    isqrtFrom n k r * isqrtFrom n k r ≤ n ∧ n < (isqrtFrom n k r + 1) * (isqrtFrom n k r + 1) := by
  induction k generalizing r with
  | zero => exact ⟨h1, by simpa [isqrtFrom] using h2⟩
  | succ k ih =>
    rw [isqrtFrom]
    rw [show r + 2 ^ (k + 1) = r + 2 ^ k + 2 ^ k by rw [pow_succ]; ring] at h2
    split
    · exact ih _ ‹_› h2
    · exact ih _ h1 (by omega)

/-- `isqrt` is the integer square root. -/
theorem isqrt_bounds {n : Nat} (h : n < 2 ^ 213 * 2 ^ 213) :
    isqrt n * isqrt n ≤ n ∧ n < (isqrt n + 1) * (isqrt n + 1) :=
  isqrtFrom_bounds n 213 0 (by omega) (by rw [Nat.zero_add]; exact h)

end Sys2Proof.Machine
end

