-- ==== Sys2Proof/Laws/PerInstr.lean ====
section
/-! SUPPORT. The family ReservedBits: an encoded instruction keeps the reserved bits 0 and carries its own OP and TT in their fields (spec/30_encoding.md R50). -/

namespace Sys2Proof.Laws.ReservedBits

/-- The fields of an encoded instruction's operation word. -/
def Statement (i : Instr) : Prop :=
  reservedField (encode i) = 0 ∧ opField (encode i) = opNumber i ∧ targetField (encode i) = targetNumber i

theorem construct (tt : TagField) : Statement (.construct tt) := by
  rcases tt with _ | t
  · unfold Statement; decide
  · cases t <;> unfold Statement <;> decide

theorem extractLane : Statement .extractLane := by unfold Statement; decide

theorem replaceLane : Statement .replaceLane := by unfold Statement; decide

theorem neg : Statement .neg := by unfold Statement; decide

theorem add : Statement .add := by unfold Statement; decide

theorem sub : Statement .sub := by unfold Statement; decide

theorem mul : Statement .mul := by unfold Statement; decide

theorem div : Statement .div := by unfold Statement; decide

theorem sqrt : Statement .sqrt := by unfold Statement; decide

theorem abs : Statement .abs := by unfold Statement; decide

theorem rcpApprox : Statement .rcpApprox := by unfold Statement; decide

theorem rsqrtApprox : Statement .rsqrtApprox := by unfold Statement; decide

theorem min : Statement .min := by unfold Statement; decide

theorem max : Statement .max := by unfold Statement; decide

theorem minNum : Statement .minNum := by unfold Statement; decide

theorem maxNum : Statement .maxNum := by unfold Statement; decide

theorem addSat : Statement .addSat := by unfold Statement; decide

theorem subSat : Statement .subSat := by unfold Statement; decide

theorem eq : Statement .eq := by unfold Statement; decide

theorem ne : Statement .ne := by unfold Statement; decide

theorem lt : Statement .lt := by unfold Statement; decide

theorem le : Statement .le := by unfold Statement; decide

theorem gt : Statement .gt := by unfold Statement; decide

theorem ge : Statement .ge := by unfold Statement; decide

theorem and : Statement .and := by unfold Statement; decide

theorem or : Statement .or := by unfold Statement; decide

theorem xor : Statement .xor := by unfold Statement; decide

theorem not : Statement .not := by unfold Statement; decide

theorem shl : Statement .shl := by unfold Statement; decide

theorem shrl : Statement .shrl := by unfold Statement; decide

theorem shra : Statement .shra := by unfold Statement; decide

theorem swizzle : Statement .swizzle := by unfold Statement; decide

theorem shuffle : Statement .shuffle := by unfold Statement; decide

theorem select : Statement .select := by unfold Statement; decide

theorem cvt (tt : TagField) : Statement (.cvt tt) := by
  rcases tt with _ | t
  · unfold Statement; decide
  · cases t <;> unfold Statement <;> decide

theorem fromBits (tt : TagField) : Statement (.fromBits tt) := by
  rcases tt with _ | t
  · unfold Statement; decide
  · cases t <;> unfold Statement <;> decide

theorem bitEq : Statement .bitEq := by unfold Statement; decide

theorem sameValue : Statement .sameValue := by unfold Statement; decide

theorem sameValueZero : Statement .sameValueZero := by unfold Statement; decide

theorem anyTrue : Statement .anyTrue := by unfold Statement; decide

theorem allTrue : Statement .allTrue := by unfold Statement; decide

end Sys2Proof.Laws.ReservedBits
end

