-- ==== Sys2Proof/Laws/Step.lean ====
section
/-! SUPPORT. What a step can do, said once: it answers the present request, refuses it or idles; and what a cycle of a run does. -/

namespace Sys2Proof.Machine

theorem respond_eq_answer (s : State) : ∃ reply, respond s = s.answer reply := by
  unfold respond
  split
  · exact exec_eq_answer _ _
  · exact ⟨.error .illegalRequest, rfl⟩

theorem nextInputs_eq (t : State) :
    t.nextInputs = { t with req := t.inputs.headD Request.idle, inputs := t.inputs.tail } := by
  unfold State.nextInputs
  split <;> simp_all

/-- All that a cycle with REQ_VALID = 1 can do: the response of the request's reply is written, or the request is refused
as Unsupported; one with REQ_VALID = 0 idles. -/
theorem step_cases (s : State) :
    (∃ reply, s.req.reqValid = true ∧ respond s = s.answer reply ∧ (responseOf reply).status ≠ .unsupported ∧
      step s = .next (s.writeResponse (responseOf reply)).nextInputs) ∨
    (∃ info, s.req.reqValid = true ∧ respond s = .refused (.unsupported info) ∧
      step s = .refused (.unsupported info)) ∨
    (s.req.reqValid = false ∧ step s = .next s.idleCycle.nextInputs) := by
  by_cases hv : s.req.reqValid = true
  · obtain ⟨reply, hr⟩ := respond_eq_answer s
    rcases answer_cases s reply with ⟨hs, ha⟩ | ⟨info, rfl, ha⟩
    · exact .inl ⟨reply, hv, hr, hs, by simp [step, hv, hr, ha, endCycle]⟩
    · exact .inr (.inl ⟨info, hv, by rw [hr, ha], by simp [step, hv, hr, ha, endCycle]⟩)
  · exact .inr (.inr ⟨by simpa using hv, by simp [step, hv, endCycle]⟩)

/-- A refused request is passed, so every cycle has a next state. -/
theorem afterCycle_cases (s : State) :
    (∃ t, step s = .next t ∧ afterCycle s = .next t) ∨
    ∃ info, step s = .refused (.unsupported info) ∧ afterCycle s = .next (s.passUnsupported info) := by
  rcases step_cases s with ⟨_, _, _, _, h⟩ | ⟨info, _, _, h⟩ | ⟨_, h⟩
  · exact .inl ⟨_, h, by simp [afterCycle, h]⟩
  · exact .inr ⟨info, h, by simp [afterCycle, h]⟩
  · exact .inl ⟨_, h, by simp [afterCycle, h]⟩

/-- A cycle that takes a request presents the next one, and what the host then reads is the request's reply, a refusal where
that is Unsupported. -/
theorem afterCycle_of_request {s : State} (hv : s.req.reqValid = true) :
    ∃ reply t, respond s = s.answer reply ∧ afterCycle s = .next t ∧ t.rspValid = true ∧
      t.req = s.inputs.headD Request.idle ∧ t.inputs = s.inputs.tail ∧
      t.readResponse = readFields true (responseOf reply) := by
  obtain ⟨reply, hr⟩ := respond_eq_answer s
  rcases answer_cases s reply with ⟨_, ha⟩ | ⟨info, rfl, ha⟩
  · exact ⟨reply, (s.writeResponse (responseOf reply)).nextInputs, hr,
      by simp [afterCycle, step, hv, hr, ha, endCycle], by simp, by simp, by simp, by simp [State.readResponse]⟩
  · exact ⟨_, s.passUnsupported info, hr, by simp [afterCycle, step, hv, hr, ha, endCycle], by simp, by simp, by simp,
      by simp [State.readResponse, responseOf]⟩

theorem allResponses_map (responses : List Response) : allResponses (responses.map .next) = .next responses := by
  induction responses with
  | nil => rfl
  | cons r rest ih => simp [allResponses, ih]

end Sys2Proof.Machine
end

