-- ==== Sys2Proof/Tests/Slice0.lean ====
section
/-! SUPPORT. Tests. Expected words are written out from spec/30_encoding.md R50 and R52, expected responses from the vectors of spec/95_test_vectors.md (named V…) and the rules' own examples; the witnesses meet the hypotheses of the obligations. -/

namespace Sys2Proof.Tests
open Sys2Proof.Machine

/-! Small states -/

/-- A tagged value from its lanes as integers, lane 0 first, the rest 0; -1 is a true bool lane. -/
def vec (t : Tag) (lanes : List Int) : Vec := mkVec t fun i => BitVec.ofInt (laneWidth t) (lanes.getD i 0)

/-- The machine after reset with a request presented. -/
def present (opw : Word) (a b m : Port) : State :=
  { State.reset with req := { Request.idle with reqValid := true, opw := opw, a := a, b := b, m := m } }

/-- A request with one vector operand. -/
def on (opw : Word) (a : Vec) : State := present opw a.port Port.none Port.none

/-- A request with two vector operands. -/
def onPair (opw : Word) (a b : Vec) : State := present opw a.port b.port Port.none

/-- The same request with a lane index and a lane value. -/
def atLane (s : State) (idx val : Word) : State := { s with req := { s.req with idx := idx, val := val } }

/-- The same request with a shift amount. -/
def byAmount (s : State) (shamt : Word) : State := { s with req := { s.req with shamt := shamt } }

/-- The same request with array entries, the rest 0. -/
def withEntries (s : State) (n : Word) (entries : List Word) : State :=
  { s with req := { s.req with n := n, l := Vector.ofFn fun k => entries.getD k.val 0 } }

/-- The response of one step. -/
def reply (s : State) : Option Response :=
  match step s with
  | .next t => some t.rsp
  | .fault _ => none
  | .refused _ => none

/-- The ERR_INFO of a step refused as Unsupported. -/
def unsupportedLane (s : State) : Option Word :=
  match step s with
  | .next _ => none
  | .fault _ => none
  | .refused (.unsupported info) => some info
  | .refused _ => none

/-! Decoding: RSV, TT and OP written out bit by bit -/

theorem test_decode_lane_access :
    decode (0#23 ++ 0b011#3 ++ 0b000001#6) = .ok (.construct (some .int8x16)) ∧
    decode (0#23 ++ 0b000#3 ++ 0b000010#6) = .ok .extractLane ∧
    decode (0#23 ++ 0b000#3 ++ 0b000011#6) = .ok .replaceLane := by decide

theorem test_decode_arithmetic :
    decode (0#23 ++ 0b000#3 ++ 0b001000#6) = .ok .neg ∧
    decode (0#23 ++ 0b000#3 ++ 0b001001#6) = .ok .add ∧
    decode (0#23 ++ 0b000#3 ++ 0b001010#6) = .ok .sub ∧
    decode (0#23 ++ 0b000#3 ++ 0b001011#6) = .ok .mul ∧
    decode (0#23 ++ 0b000#3 ++ 0b001100#6) = .ok .div ∧
    decode (0#23 ++ 0b000#3 ++ 0b001101#6) = .ok .sqrt ∧
    decode (0#23 ++ 0b000#3 ++ 0b001110#6) = .ok .abs ∧
    decode (0#23 ++ 0b000#3 ++ 0b001111#6) = .ok .rcpApprox := by decide

theorem test_decode_arithmetic_upper :
    decode (0#23 ++ 0b000#3 ++ 0b010000#6) = .ok .rsqrtApprox ∧
    decode (0#23 ++ 0b000#3 ++ 0b010001#6) = .ok .min ∧
    decode (0#23 ++ 0b000#3 ++ 0b010010#6) = .ok .max ∧
    decode (0#23 ++ 0b000#3 ++ 0b010011#6) = .ok .minNum ∧
    decode (0#23 ++ 0b000#3 ++ 0b010100#6) = .ok .maxNum ∧
    decode (0#23 ++ 0b000#3 ++ 0b010101#6) = .ok .addSat ∧
    decode (0#23 ++ 0b000#3 ++ 0b010110#6) = .ok .subSat := by decide

theorem test_decode_comparators :
    decode (0#23 ++ 0b000#3 ++ 0b011000#6) = .ok .eq ∧
    decode (0#23 ++ 0b000#3 ++ 0b011001#6) = .ok .ne ∧
    decode (0#23 ++ 0b000#3 ++ 0b011010#6) = .ok .lt ∧
    decode (0#23 ++ 0b000#3 ++ 0b011011#6) = .ok .le ∧
    decode (0#23 ++ 0b000#3 ++ 0b011100#6) = .ok .gt ∧
    decode (0#23 ++ 0b000#3 ++ 0b011101#6) = .ok .ge := by decide

theorem test_decode_logic_and_shifts :
    decode (0#23 ++ 0b000#3 ++ 0b100000#6) = .ok .and ∧
    decode (0#23 ++ 0b000#3 ++ 0b100001#6) = .ok .or ∧
    decode (0#23 ++ 0b000#3 ++ 0b100010#6) = .ok .xor ∧
    decode (0#23 ++ 0b000#3 ++ 0b100011#6) = .ok .not ∧
    decode (0#23 ++ 0b000#3 ++ 0b100100#6) = .ok .shl ∧
    decode (0#23 ++ 0b000#3 ++ 0b100101#6) = .ok .shrl ∧
    decode (0#23 ++ 0b000#3 ++ 0b100110#6) = .ok .shra := by decide

theorem test_decode_permute_and_casts :
    decode (0#23 ++ 0b000#3 ++ 0b101000#6) = .ok .swizzle ∧
    decode (0#23 ++ 0b000#3 ++ 0b101001#6) = .ok .shuffle ∧
    decode (0#23 ++ 0b000#3 ++ 0b101010#6) = .ok .select ∧
    decode (0#23 ++ 0b001#3 ++ 0b110000#6) = .ok (.cvt (some .int32x4)) ∧
    decode (0#23 ++ 0b110#3 ++ 0b110001#6) = .ok (.fromBits (some .bool8x16)) := by decide

theorem test_decode_equality_and_reductions :
    decode (0#23 ++ 0b000#3 ++ 0b111000#6) = .ok .bitEq ∧
    decode (0#23 ++ 0b000#3 ++ 0b111001#6) = .ok .sameValue ∧
    decode (0#23 ++ 0b000#3 ++ 0b111010#6) = .ok .sameValueZero ∧
    decode (0#23 ++ 0b000#3 ++ 0b111011#6) = .ok .anyTrue ∧
    decode (0#23 ++ 0b000#3 ++ 0b111100#6) = .ok .allTrue := by decide

/-- One word for each reason R53 gives: V30-06, V30-15, V30-03, V30-04, V30-02, V30-07, V30-08. -/
theorem test_decode_refuses :
    decode 0x80000009 = .error .reservedBits ∧ decode 0x00000209 = .error .reservedBits ∧
    decode 0x00000000 = .error .reservedOp ∧ decode 0x00000017 = .error .reservedOp ∧
    decode 0x00000049 = .error .unusedTarget ∧
    decode 0x000001C1 = .error .noTargetTag ∧ decode 0x000001F1 = .error .noTargetTag := by decide

/-- The ends of R53's reserved ranges of OP. -/
theorem test_decode_reserved_ranges :
    ∀ op ∈ [0x04, 0x07, 0x1E, 0x1F, 0x27, 0x2B, 0x2F, 0x32, 0x37, 0x3D, 0x3F],
      decode (BitVec.ofNat 32 op) = .error .reservedOp := by decide

/-- CVT's TT is no matter of R53: TT = 7 decodes, and R54 refuses it. -/
theorem test_decode_cvt_any_target : decode 0x000001F0 = .ok (.cvt none) := by decide

/-- The ill-formed terms, and what the checks let through. -/
theorem test_wellFormed :
    Instr.wellFormed (.construct none) = false ∧ Instr.wellFormed (.fromBits none) = false ∧
    Instr.wellFormed (.construct (some .bool8x16)) = true ∧ Instr.wellFormed (.fromBits (some .float32x4)) = true ∧
    Instr.wellFormed (.cvt none) = true ∧ Instr.wellFormed .add = true := by decide

/-- A table row's word, as the host asks for it, and the first step after reset that runs it. -/
theorem test_table_word_runs_first :
    decodeTableWord 32 0x00000009 = some .add ∧
    reply (State.reset.withFetchWord 32 0x00000009) = some (respondVec (vec .float32x4 [])) := by decide

/-- TextScalarsFillTheirPorts: the greatest and the least integers that fit, and those past them. -/
theorem test_text_scalars :
    scalarFits (.int 4294967295) = true ∧ scalarFits (.int (-2147483648)) = true ∧
    scalarWord (.int 4294967295) = 0xFFFFFFFF ∧ scalarWord (.int (-2147483648)) = 0x80000000 ∧
    requestOfText .extractLane (.lane Port.none (.int 4294967296)) = none ∧
    requestOfText .extractLane (.lane Port.none (.int (-2147483649))) = none := by decide

/-- R57: SELECT lists its mask first, CONSTRUCT counts its entries; V44-15, V40-04. They meet TextRequestsDecode's hypotheses. -/
theorem test_text_requests :
    requestOfText .select (.mask (vec .bool32x4 [-1, 0, -1, 0]).port (vec .int32x4 [1, 2, 3, 4]).port
      (vec .int32x4 [5, 6, 7, 8]).port) =
      some (present 0x0000002A (vec .int32x4 [1, 2, 3, 4]).port (vec .int32x4 [5, 6, 7, 8]).port
        (vec .bool32x4 [-1, 0, -1, 0]).port).req ∧
    (requestOfText (.construct (some .bool32x4)) (.lanes [.int 5, .bool false, .int (-1), .bool true])).map
      (fun r => (r.opw, r.n, r.entry 0, r.entry 1, r.entry 2, r.entry 3)) = some (0x00000101, 4, 5, 0, 0xFFFFFFFF, 1) ∧
    fitsText (.construct (some .int8x16)) (.lanes (List.replicate 16 (.int 0))) = true ∧
    fitsText (.construct (some .int8x16)) (.lanes (List.replicate 17 (.int 0))) = false ∧
    fitsText (.construct none) (.lanes []) = false ∧
    requestOfText .add (.one Port.none) = none := by decide

/-! Lane access -/

/-- V40-02. -/
theorem test_construct_keeps_low_bits :
    reply (withEntries (present 0x000000C1 Port.none Port.none Port.none) 16 [30, 300, 128, 0xFFFFFFFF]) =
      some (respondVec (vec .int8x16 [30, 44, -128, -1])) := by decide

/-- V40-04, V30-12. -/
theorem test_construct_bool_and_count :
    reply (withEntries (present 0x00000101 Port.none Port.none Port.none) 4 [5, 0, 0xFFFFFFFF, 1]) =
      some (respondVec (vec .bool32x4 [-1, 0, -1, -1])) ∧
    reply (withEntries (present 0x00000041 Port.none Port.none Port.none) 3 [1, 2, 3]) = some (raise .illegalRequest) := by
  decide

/-- V40-12, V40-15: a sign-extended lane, and IDX = n. -/
theorem test_extractLane_bounds :
    reply (atLane (on 0x00000002 (vec .int8x16 [-128])) 0 0) = some (respondScalar 0xFFFFFF80) ∧
    reply (atLane (on 0x00000002 (vec .int8x16 [])) 16 0) = some (raise (.indexOutOfRange 16)) := by decide

/-- V40-13, V40-14. -/
theorem test_extractLane_bool_and_float :
    reply (atLane (on 0x00000002 (vec .bool8x16 (List.replicate 15 0 ++ [-1]))) 15 0) = some (respondScalar 1) ∧
    reply (atLane (on 0x00000002 (vec .float32x4 [0, 0xFFC00001])) 1 0) = some (respondScalar 0xFFC00001) := by decide

/-- V40-17, V40-20. -/
theorem test_replaceLane_bounds :
    reply (atLane (on 0x00000003 (vec .int8x16 [])) 15 0x180) =
      some (respondVec (vec .int8x16 (List.replicate 15 0 ++ [-128]))) ∧
    reply (atLane (on 0x00000003 (vec .int32x4 [1, 2, 3, 4])) 4 9) = some (raise (.indexOutOfRange 4)) := by decide

/-- V40-18. -/
theorem test_replaceLane_bool :
    reply (atLane (on 0x00000003 (vec .bool16x8 [])) 3 2) = some (respondVec (vec .bool16x8 [0, 0, 0, -1])) := by decide

/-! Arithmetic -/

/-- V41-01, V41-03. -/
theorem test_neg :
    reply (on 0x00000008 (vec .int8x16 [-128, 0, 1, 127])) = some (respondVec (vec .int8x16 [-128, 0, -1, -127])) ∧
    reply (on 0x00000008 (vec .float32x4 [0x3F800000, 0, 0x80000000, 0x7FC00001])) =
      some (respondVec (vec .float32x4 [0xBF800000, 0x80000000, 0, 0xFFC00001])) := by decide

/-- V41-06. -/
theorem test_add_wraps :
    reply (onPair 0x00000009 (vec .int8x16 [127, -128, 100]) (vec .int8x16 [1, -1, 100])) =
      some (respondVec (vec .int8x16 [-128, 127, -56])) := by decide

/-- V41-20. -/
theorem test_add_float :
    reply (onPair 0x00000009 (vec .float32x4 [0x3FC00000, 0x3DCCCCCD, 0x7F7FFFFF, 0x3F800000])
      (vec .float32x4 [0x40100000, 0x3E4CCCCD, 0x7F7FFFFF, 0xBF800000])) =
      some (respondVec (vec .float32x4 [0x40700000, 0x3E99999A, 0x7F800000, 0])) := by decide

/-- V41-08. -/
theorem test_sub_wraps :
    reply (onPair 0x0000000A (vec .int32x4 [5, 0, -2147483648, 0]) (vec .int32x4 [7, -2147483648, 1, 0])) =
      some (respondVec (vec .int32x4 [-2, -2147483648, 2147483647, 0])) := by decide

/-- V41-22, without its draw: x - x, -0 - +0, 1 - 0.5, and R112's x - x once more. -/
theorem test_sub_float :
    reply (onPair 0x0000000A (vec .float32x4 [0x40400000, 0x80000000, 0x3F800000, 0x3F800000])
      (vec .float32x4 [0x40400000, 0, 0x3F000000, 0x3F800000])) =
      some (respondVec (vec .float32x4 [0, 0x80000000, 0x3F000000, 0])) := by decide

/-- V41-11. -/
theorem test_mul_wraps :
    reply (onPair 0x0000000B (vec .int8x16 [16, -1, -128, 11]) (vec .int8x16 [16, -1, -1, 12])) =
      some (respondVec (vec .int8x16 [0, 1, -128, -124])) := by decide

/-- Lanes of V41-23 and V41-24 that are no draw: -2 × +0, subnormal ties to even, and an overflow. -/
theorem test_mul_float :
    reply (onPair 0x0000000B (vec .float32x4 [0xC0000000, 0x00000001, 0x00000003, 0xF149F2CA])
      (vec .float32x4 [0, 0x3F000000, 0x3F000000, 0x7149F2CA])) =
      some (respondVec (vec .float32x4 [0x80000000, 0, 0x00000002, 0xFF800000])) := by decide +kernel

/-- Lanes of V41-25 and V41-26 that are no draw: 3 over 2, 1 over -0, 5 over -inf, 1 over 3. -/
theorem test_div :
    reply (onPair 0x0000000C (vec .float32x4 [0x40400000, 0x3F800000, 0x40A00000, 0x3F800000])
      (vec .float32x4 [0x40000000, 0x80000000, 0xFF800000, 0x40400000])) =
      some (respondVec (vec .float32x4 [0x3FC00000, 0xFF800000, 0x80000000, 0x3EAAAAAB])) := by decide +kernel

/-- V41-13. -/
theorem test_div_no_integers :
    reply (onPair 0x0000000C (vec .int32x4 [1, 1, 1, 1]) (vec .int32x4 [1, 1, 1, 1])) = some (raise .illegalRequest) := by
  decide

/-- Lanes of V41-27 and V41-28 that are no draw: 4, 2, -0, +inf. -/
theorem test_sqrt :
    reply (on 0x0000000D (vec .float32x4 [0x40800000, 0x40000000, 0x80000000, 0x7F800000])) =
      some (respondVec (vec .float32x4 [0x40000000, 0x3FB504F3, 0x80000000, 0x7F800000])) := by decide +kernel

/-- V41-29, V41-30. -/
theorem test_abs :
    reply (on 0x0000000E (vec .float32x4 [0xC0600000, 0x80000000, 0xFF800000, 0xFFC00001])) =
      some (respondVec (vec .float32x4 [0x40600000, 0, 0x7F800000, 0x7FC00001])) ∧
    reply (on 0x0000000E (vec .int32x4 [-1])) = some (raise .illegalRequest) := by decide

/-- R117, R118: a Float32x4 response; its lanes are open. -/
theorem test_approximations_complete :
    (reply (on 0x0000000F (vec .float32x4 [0x40800000]))).map (fun r => (r.status, r.rv.tag)) =
      some (.ok, some .float32x4) ∧
    (reply (on 0x00000010 (vec .float32x4 [0x40800000]))).map (fun r => (r.status, r.rv.tag)) =
      some (.ok, some .float32x4) := by decide

/-- V41-32. -/
theorem test_min :
    reply (onPair 0x00000011 (vec .float32x4 [0, 0x80000000, 0x7FC00000, 0x3F800000])
      (vec .float32x4 [0x80000000, 0, 0x3F800000, 0x40000000])) =
      some (respondVec (vec .float32x4 [0x80000000, 0x80000000, 0x7FC00000, 0x3F800000])) := by decide

/-- V41-35. -/
theorem test_max :
    reply (onPair 0x00000012 (vec .float32x4 [0x7FC00001, 0x3F800000, 0x00000001, 0x7F800000])
      (vec .float32x4 [0x3F800000, 0xFFC00000, 0, 0x40400000])) =
      some (respondVec (vec .float32x4 [0x7FC00000, 0x7FC00000, 0x00000001, 0x7F800000])) := by decide

/-- V41-36. -/
theorem test_minNum :
    reply (onPair 0x00000013 (vec .float32x4 [0x7FC00000, 0x7FC00001, 0x7FC00000, 0])
      (vec .float32x4 [0x40400000, 0xFFC00000, 0x80000000, 0x80000000])) =
      some (respondVec (vec .float32x4 [0x40400000, 0x7FC00000, 0x80000000, 0x80000000])) := by decide

/-- V41-37. -/
theorem test_maxNum :
    reply (onPair 0x00000014 (vec .float32x4 [0x40400000, 0xFF800000, 0, 0x7FC00000])
      (vec .float32x4 [0x7FC00000, 0x7FC00000, 0x80000000, 0x7FC00001])) =
      some (respondVec (vec .float32x4 [0x40400000, 0xFF800000, 0, 0x7FC00000])) := by decide

/-- V41-14, V41-18. -/
theorem test_addSat :
    reply (onPair 0x00000015 (vec .int8x16 [120, -100, 127, 127]) (vec .int8x16 [50, -100, -128])) =
      some (respondVec (vec .int8x16 [127, -128, -1, 127])) ∧
    reply (onPair 0x00000015 (vec .int32x4 [1, 1, 1, 1]) (vec .int32x4 [1, 1, 1, 1])) = some (raise .illegalRequest) := by
  decide

/-- V41-17. -/
theorem test_subSat :
    reply (onPair 0x00000016 (vec .int16x8 [-32768, 100, 32767]) (vec .int16x8 [32767, 30, -32768])) =
      some (respondVec (vec .int16x8 [-32768, 70, 32767])) := by decide

/-! Comparators and logic -/

/-- V42-02. -/
theorem test_eq_float :
    reply (onPair 0x00000018 (vec .float32x4 [0, 0x7FC00000, 0x3F800000, 0xFF800000])
      (vec .float32x4 [0x80000000, 0x7FC00000, 0x3F800000, 0xFF800000])) =
      some (respondVec (vec .bool32x4 [-1, 0, -1, -1])) := by decide

/-- V42-04, V42-05. -/
theorem test_ne :
    reply (onPair 0x00000019 (vec .float32x4 [0x3F800000, 0x7FC00000, 0, 0x80000000])
      (vec .float32x4 [0x3F800000, 0x7FC00000, 0x80000000, 0x40000000])) =
      some (respondVec (vec .bool32x4 [0, -1, 0, -1])) ∧
    reply (onPair 0x00000019 (vec .bool32x4 [-1, 0, -1, 0]) (vec .bool32x4 [-1, -1, 0, 0])) =
      some (respondVec (vec .bool32x4 [0, -1, -1, 0])) := by decide

/-- V42-07. -/
theorem test_lt_float :
    reply (onPair 0x0000001A (vec .float32x4 [0x80000000, 0x7FC00000, 0xFF800000, 0x3F800000])
      (vec .float32x4 [0, 0x3F800000, 0xF149F2CA, 0x7F800000])) = some (respondVec (vec .bool32x4 [0, 0, -1, -1])) := by
  decide

/-- V42-06, V42-14. -/
theorem test_lt_signed :
    reply (onPair 0x0000001A (vec .int8x16 [-1, -128, 5, 5]) (vec .int8x16 [1, 127, 5, 4])) =
      some (respondVec (vec .bool8x16 [-1, -1])) ∧
    reply (onPair 0x0000001A (vec .bool32x4 [-1, -1, -1, -1]) (vec .bool32x4 [])) = some (raise .illegalRequest) := by
  decide

/-- V42-09. -/
theorem test_le :
    reply (onPair 0x0000001B (vec .float32x4 [0x80000000, 0, 0x7FC00000, 0x40000000])
      (vec .float32x4 [0, 0x80000000, 0x7FC00000, 0x3F800000])) = some (respondVec (vec .bool32x4 [-1, -1, 0, 0])) := by
  decide

/-- V42-10. -/
theorem test_gt :
    reply (onPair 0x0000001C (vec .int16x8 [32767, -32768, 0, 1]) (vec .int16x8 [-32768, 32767])) =
      some (respondVec (vec .bool16x8 [-1, 0, 0, -1])) := by decide

/-- V42-13. -/
theorem test_ge :
    reply (onPair 0x0000001D (vec .float32x4 [0x7FC00000, 0, 0xBF800000, 0x7F800000])
      (vec .float32x4 [0x7FC00000, 0x80000000, 0xBF800000, 0x7F800000])) =
      some (respondVec (vec .bool32x4 [0, -1, -1, -1])) := by decide

/-- V42-16, V42-22. -/
theorem test_and :
    reply (onPair 0x00000020 (vec .int32x4 [252645135, -1, 0, 5]) (vec .int32x4 [16711935, 7, -1, 3])) =
      some (respondVec (vec .int32x4 [983055, 7, 0, 1])) ∧
    reply (onPair 0x00000020 (vec .float32x4 []) (vec .float32x4 [])) = some (raise .illegalRequest) := by decide

/-- V42-17, V42-23. -/
theorem test_or :
    reply (onPair 0x00000021 (vec .int8x16 [-16]) (vec .int8x16 [15])) = some (respondVec (vec .int8x16 [-1])) ∧
    reply (onPair 0x00000021 (vec .bool16x8 []) (vec .bool8x16 [])) = some (raise .illegalRequest) := by decide

/-- V42-18. -/
theorem test_xor :
    reply (onPair 0x00000022 (vec .bool32x4 [-1, -1, 0, 0]) (vec .bool32x4 [-1, 0, -1, 0])) =
      some (respondVec (vec .bool32x4 [0, -1, -1, 0])) := by decide

/-- V42-21, V30-13. -/
theorem test_not :
    reply (on 0x00000023 (vec .int32x4 [0, 2147483647, -1, 1431655765])) =
      some (respondVec (vec .int32x4 [-1, -2147483648, 0, -1431655766])) ∧
    unsupportedLane (on 0x00000023 (vec .bool32x4 [1])) = some 0 := by decide

/-! Shifts -/

/-- V43-02, V43-03, V43-06: an amount of w - 1, of w, and a huge one. -/
theorem test_shl :
    reply (byAmount (on 0x00000024 (vec .int8x16 (List.replicate 16 1))) 7) =
      some (respondVec (vec .int8x16 (List.replicate 16 (-128)))) ∧
    reply (byAmount (on 0x00000024 (vec .int8x16 (List.replicate 16 1))) 8) = some (respondVec (vec .int8x16 [])) ∧
    reply (byAmount (on 0x00000024 (vec .int32x4 [-1, 1, 2, 3])) 0xFFFFFFFF) = some (respondVec (vec .int32x4 [])) := by
  decide

/-- V43-09, V43-11. -/
theorem test_shrl :
    reply (byAmount (on 0x00000025 (vec .int8x16 [-128, -1, 64])) 1) = some (respondVec (vec .int8x16 [64, 127, 32])) ∧
    reply (byAmount (on 0x00000025 (vec .int8x16 [-128, -1, 64])) 8) = some (respondVec (vec .int8x16 [])) := by decide

/-- V43-13, V43-16. -/
theorem test_shra :
    reply (byAmount (on 0x00000026 (vec .int8x16 [-128, -1, -7, 5])) 1) =
      some (respondVec (vec .int8x16 [-64, -1, -4, 2])) ∧
    reply (byAmount (on 0x00000026 (vec .int16x8 [-32768, 32767, -2, 2])) 16) =
      some (respondVec (vec .int16x8 [-1, 0, -1])) := by decide

/-! Permute and select -/

/-- V44-01, V44-05. -/
theorem test_swizzle :
    reply (withEntries (on 0x00000028 (vec .int32x4 [1, 2, 3, 4])) 4 [3, 2, 1, 0]) =
      some (respondVec (vec .int32x4 [4, 3, 2, 1])) ∧
    reply (withEntries (on 0x00000028 (vec .int32x4 [1, 2, 3, 4])) 4 [0, 4, 9, 0xFFFFFFFF]) =
      some (raise (.indexOutOfRange 1)) := by decide

/-- V30-17, V30-18: the check order. -/
theorem test_swizzle_check_order :
    reply (withEntries (on 0x00000028 (vec .bool32x4 [2])) 3 [0, 9, 0]) = some (raise .illegalRequest) ∧
    unsupportedLane (withEntries (on 0x00000028 (vec .bool32x4 [2])) 4 [0, 9, 0, 0]) = some 0 := by decide

/-- V44-10, V44-12. -/
theorem test_shuffle :
    reply (withEntries (onPair 0x00000029 (vec .int32x4 [1, 2, 3, 4]) (vec .int32x4 [5, 6, 7, 8])) 4 [0, 4, 1, 7]) =
      some (respondVec (vec .int32x4 [1, 5, 2, 8])) ∧
    reply (withEntries (onPair 0x00000029 (vec .int32x4 [1, 2, 3, 4]) (vec .int32x4 [5, 6, 7, 8])) 4 [0, 8, 1, 7]) =
      some (raise (.indexOutOfRange 1)) := by decide

/-- V44-15, V44-18. -/
theorem test_select :
    reply (present 0x0000002A (vec .int32x4 [1, 2, 3, 4]).port (vec .int32x4 [5, 6, 7, 8]).port
      (vec .bool32x4 [-1, 0, -1, 0]).port) = some (respondVec (vec .int32x4 [1, 6, 3, 8])) ∧
    reply (present 0x0000002A (vec .int32x4 [1, 2, 3, 4]).port (vec .int32x4 [5, 6, 7, 8]).port
      (vec .bool16x8 (List.replicate 8 (-1))).port) = some (raise .illegalRequest) := by decide

/-- V44-19, V30-16. -/
theorem test_select_check_order :
    unsupportedLane (present 0x0000002A (vec .int32x4 [1, 2, 3, 4]).port (vec .int32x4 [5, 6, 7, 8]).port
      (vec .bool32x4 [-1, 1]).port) = some 1 ∧
    reply (present 0x0000002A (vec .int32x4 [1, 2, 3, 4]).port (vec .int16x8 []).port (vec .bool32x4 [5]).port) =
      some (raise .illegalRequest) := by decide

/-! Casts -/

/-- V45-02, V45-08. -/
theorem test_cvt_to_int :
    reply (on 0x00000070 (vec .float32x4 [0x4EFFFFFF, 0xCEFFFFFF, 0x3FF33333, 0xBFF33333])) =
      some (respondVec (vec .int32x4 [2147483520, -2147483520, 1, -1])) ∧
    reply (on 0x00000070 (vec .float32x4 [0x7FC00000, 0x7149F2CA])) = some (raise (.rangeError 0)) := by decide

/-- V45-09, V45-11. -/
theorem test_cvt_to_float :
    reply (on 0x00000030 (vec .int32x4 [16777217, 2147483647, -2147483648, -3])) =
      some (respondVec (vec .float32x4 [0x4B800000, 0x4F000000, 0xCF000000, 0xC0400000])) ∧
    reply (on 0x00000030 (vec .float32x4 [])) = some (raise .illegalRequest) := by decide

/-- V45-16, V45-22. -/
theorem test_fromBits :
    reply (on 0x000000F1 (vec .int32x4 [67305985, 0, 0, -1])) =
      some (respondVec (vec .int8x16 [1, 2, 3, 4, 0, 0, 0, 0, 0, 0, 0, 0, -1, -1, -1, -1])) ∧
    unsupportedLane (on 0x00000131 (vec .bool8x16 [-1, -1, -1, -1, -1])) = some 1 := by decide

/-! Equality and reductions -/

/-- V46-02, V46-19. -/
theorem test_bitEq :
    reply (onPair 0x00000038 (vec .float32x4 [1, 2, 3, 4]) (vec .int32x4 [1, 2, 3, 4])) = some (respondScalar 1) ∧
    reply (on 0x00000038 (vec .int32x4 [1, 2, 3, 4])) = some (raise .illegalRequest) := by decide

/-- V46-06, V46-07, V46-08. -/
theorem test_sameValue :
    reply (onPair 0x00000039 (vec .float32x4 [0x3F800000, 0x7FC00000, 0x80000000, 0x40000000])
      (vec .float32x4 [0x3F800000, 0xFFC00001, 0x80000000, 0x40000000])) = some (respondScalar 1) ∧
    reply (onPair 0x00000039 (vec .float32x4 []) (vec .float32x4 [0x80000000])) = some (respondScalar 0) ∧
    reply (onPair 0x00000039 (vec .float32x4 [1, 2, 3, 4]) (vec .int32x4 [1, 2, 3, 4])) = some (respondScalar 0) := by
  decide

/-- V46-10, V46-12. -/
theorem test_sameValueZero :
    reply (onPair 0x0000003A (vec .float32x4 [0, 0x3F800000]) (vec .float32x4 [0x80000000, 0x3F800000])) =
      some (respondScalar 1) ∧
    reply (onPair 0x0000003A (vec .float32x4 [0x3F800000]) (vec .float32x4 [0xBF800000])) = some (respondScalar 0) := by
  decide

/-- V46-13, V46-14. -/
theorem test_anyTrue :
    reply (on 0x0000003B (vec .bool8x16 (List.replicate 15 0 ++ [-1]))) = some (respondScalar 1) ∧
    reply (on 0x0000003B (vec .bool16x8 [])) = some (respondScalar 0) := by decide

/-- V46-15, V46-18. -/
theorem test_allTrue :
    reply (on 0x0000003C (vec .bool32x4 [-1, -1, -1, 0])) = some (respondScalar 0) ∧
    unsupportedLane (on 0x0000003C (vec .bool32x4 [-1, -1, -1, 1])) = some 3 := by decide

/-! Witnesses: concrete states and operands that meet the hypotheses of the obligations, clause by clause -/

/-- One word for each clause of R53 in IllegalWordsGetIllegalRequest, on a request that is presented. -/
theorem test_witness_illegalWords :
    ((0x00000200#32).extractLsb' 9 23 ≠ 0 ∧ ((0x00000000#32).extractLsb' 0 6).toNat = 0 ∧
      ((0x00000007#32).extractLsb' 0 6).toNat = 7 ∧ ((0x00000017#32).extractLsb' 0 6).toNat = 0x17 ∧
      ((0x0000003F#32).extractLsb' 0 6).toNat = 0x3F ∧ ((0x00000049#32).extractLsb' 6 3).toNat = 1 ∧
      ((0x000001F1#32).extractLsb' 6 3).toNat = 7) ∧
    ∀ w, (present w Port.none Port.none Port.none).req.reqValid = true ∧
      (present w Port.none Port.none Port.none).req.opw = w :=
  ⟨by decide, fun _ => ⟨rfl, rfl⟩⟩

/-- StepRunsDecodedInstruction, EveryRequestIsAnswered, NoStepAnswersUnsupported: a request that is answered and one that is
refused; RefusedExactlyWhereUnsupported: the second. -/
theorem test_witness_step :
    (onPair 0x00000009 (vec .int32x4 [1]) (vec .int32x4 [2])).req.reqValid = true ∧
    decode (onPair 0x00000009 (vec .int32x4 [1]) (vec .int32x4 [2])).req.opw = .ok .add ∧
    (∃ t, exec .add (onPair 0x00000009 (vec .int32x4 [1]) (vec .int32x4 [2])) = .next t) ∧
    (on 0x00000023 (vec .bool32x4 [1])).req.reqValid = true ∧
    decode (on 0x00000023 (vec .bool32x4 [1])).req.opw = .ok .not ∧
    exec .not (on 0x00000023 (vec .bool32x4 [1])) = .refused (.unsupported 0) :=
  ⟨by decide, by decide, ⟨_, rfl⟩, by decide, by decide, rfl⟩

/-- ConstructBuildsLanes: N = n(T) for the three lane counts and categories. -/
theorem test_witness_construct :
    (withEntries State.reset 4 [1]).req.n.toNat = laneCount .float32x4 ∧
    (withEntries State.reset 8 [1]).req.n.toNat = laneCount .int16x8 ∧
    (withEntries State.reset 16 [1]).req.n.toNat = laneCount .bool8x16 ∧
    (withEntries State.reset 16 [1]).req.entry 0 ≠ 0 ∧ (withEntries State.reset 16 [1]).req.entry 15 = 0 := by decide

/-- ExtractLaneReadsLane, ReplaceLaneSetsOneLane: IDX = n - 1 and IDX = n, on a bool value. -/
theorem test_witness_laneIndex :
    (atLane (on 2 (vec .bool16x8 [-1])) 7 0).req.a = (vec .bool16x8 [-1]).port ∧ (vec .bool16x8 [-1]).Canonical ∧
    (atLane (on 2 (vec .bool16x8 [-1])) 7 0).req.idx.toNat < laneCount .bool16x8 ∧
    laneCount .bool16x8 ≤ (atLane (on 2 (vec .bool16x8 [-1])) 8 0).req.idx.toNat := by decide

/-- The pairs of float lanes, and of integer lanes, that the arithmetic and ordering statements take; on A alone, the
unary ones. -/
theorem test_witness_pairs :
    (onPair 9 (vec .float32x4 [1]) (vec .float32x4 [2])).req.a = (vec .float32x4 [1]).port ∧
    (onPair 9 (vec .float32x4 [1]) (vec .float32x4 [2])).req.b = (vec .float32x4 [2]).port ∧
    (vec .float32x4 [2]).tag = (vec .float32x4 [1]).tag ∧ category (vec .float32x4 [1]).tag ≠ .bool ∧
    (onPair 9 (vec .int8x16 [1]) (vec .int8x16 [2])).req.a = (vec .int8x16 [1]).port ∧
    (onPair 9 (vec .int8x16 [1]) (vec .int8x16 [2])).req.b = (vec .int8x16 [2]).port ∧
    (vec .int8x16 [2]).tag = (vec .int8x16 [1]).tag ∧ category (vec .int8x16 [1]).tag = .int ∧
    (vec .int8x16 [1]).tag ∈ [Tag.int16x8, Tag.int8x16] ∧ (vec .int8x16 [1]).tag ≠ .float32x4 := by decide

/-- The clauses of IsSum: NaN operands, opposite infinities, one infinity, a zero sum, another sum. -/
theorem test_witness_sum :
    isNaN 0x7F800001 ∧ (isInf 0x7F800000 ∧ isInf 0xFF800000 ∧ signBit 0x7F800000 ≠ signBit 0xFF800000) ∧
    (isInf 0xFF800000 ∧ ¬ isNaN 0x7F7FFFFF ∧ ¬ isInf 0x7F7FFFFF ∧ expField 0x7F7FFFFF ≠ 0xFF) ∧
    (fval 0x80000000 + fval 0x80000000 = 0 ∧ fval 0x3F800000 + fval 0xBF800000 = 0) ∧
    (expField 0x00000001 ≠ 0xFF ∧ fval 0x00000001 + fval 0x00000001 ≠ 0) := by decide +kernel

/-- The clauses of IsProduct and IsQuotient: zero by infinity, both zero, both infinite, one infinite, a zero divisor. -/
theorem test_witness_product_and_quotient :
    (isInf 0x7F800000 ∧ isZero 0x80000000) ∧ (isZero 0x00000000 ∧ isZero 0x80000000) ∧
    (isInf 0xFF800000 ∧ ¬ isNaN 0xFF800000 ∧ ¬ isZero 0xFF800000) ∧
    (expField 0x00000001 ≠ 0xFF ∧ ¬ isNaN 0x00000001 ∧ ¬ isInf 0x00000001 ∧ ¬ isZero 0x00000001) := by decide

/-- The clauses of IsSquareRoot: a negative, the zeros, +inf, and the least positive value. -/
theorem test_witness_squareRoot :
    (signBit 0x80000001 ∧ ¬ isZero 0x80000001) ∧ isZero 0x80000000 ∧ (isInf 0x7F800000 ∧ ¬ signBit 0x7F800000) ∧
    (expField 0x00000001 ≠ 0xFF ∧ ¬ signBit 0x00000001 ∧ ¬ isZero 0x00000001) := by decide

/-- Both sides of NearestEven in RoundingIsNearestEven: the midpoint above the greatest finite value, and just below it. -/
theorem test_witness_rounding :
    1 * ((2 ^ 25 - 1) * 2 ^ 253) ≤ 2 * ((2 ^ 25 - 1) * 2 ^ 252) ∧
    ¬ 1 * ((2 ^ 25 - 1) * 2 ^ 253) ≤ 2 * ((2 ^ 25 - 1) * 2 ^ 252 - 1) := by decide +kernel

/-- The clauses of IsMinLane, IsMaxLane and the MINNUM and MAXNUM statement. -/
theorem test_witness_min_and_max :
    (isNaN 0xFFC00000 ∧ ¬ isNaN 0x80000000 ∧ ¬ isNaN 0x00000000) ∧ fval 0x80000001 < fval 0x00000000 ∧
    (fval 0x80000000 = fval 0x00000000 ∧ signBit 0x80000000 ∧ ¬ signBit 0x00000000) := by decide +kernel

/-- FloatArithmeticNaNsAreQuiet: an ADD whose lane 0 is (+inf) + (-inf). -/
theorem test_witness_nan :
    ∃ t, exec .add (onPair 9 (vec .float32x4 [0x7F800000]) (vec .float32x4 [0xFF800000])) = .next t ∧
      t.rsp.rv = (zipFloat (fAdd 0) (vec .float32x4 [0x7F800000]) (vec .float32x4 [0xFF800000])).port ∧
      isNaN (lane 32 (zipFloat (fAdd 0) (vec .float32x4 [0x7F800000]) (vec .float32x4 [0xFF800000])).bits 0) := by
  refine ⟨_, rfl, rfl, ?_⟩
  rw [zipFloat, lane_mkFloatVec _ (by decide), fAdd, floatSum, if_neg (by decide), if_pos (by decide)]
  exact isNaN_nanResult ..

/-- The comparators on a bool pair, for EQ and NE, LogicalOperationsActOnBits and NotEqualComplementsEqual: one equal lane,
one different. -/
theorem test_witness_bool_pair :
    (onPair 0x18 (vec .bool32x4 [-1, -1]) (vec .bool32x4 [-1])).req.a = (vec .bool32x4 [-1, -1]).port ∧
    (onPair 0x18 (vec .bool32x4 [-1, -1]) (vec .bool32x4 [-1])).req.b = (vec .bool32x4 [-1]).port ∧
    (vec .bool32x4 [-1]).tag = (vec .bool32x4 [-1, -1]).tag ∧ (vec .bool32x4 [-1, -1]).Canonical ∧
    (vec .bool32x4 [-1]).Canonical ∧ (vec .bool32x4 [-1]).tag ≠ .float32x4 ∧
    lane 32 (vec .bool32x4 [-1, -1]).bits 0 = lane 32 (vec .bool32x4 [-1]).bits 0 ∧
    lane 32 (vec .bool32x4 [-1, -1]).bits 1 ≠ lane 32 (vec .bool32x4 [-1]).bits 1 := by decide

/-- Shifts: amounts of w - 1 and of w. -/
theorem test_witness_shifts :
    (byAmount (on 0x24 (vec .int16x8 [1])) 15).req.a = (vec .int16x8 [1]).port ∧ category (vec .int16x8 [1]).tag = .int ∧
    (byAmount (on 0x24 (vec .int16x8 [1])) 15).req.shamt.toNat < laneWidth .int16x8 ∧
    laneWidth .int16x8 ≤ (byAmount (on 0x24 (vec .int16x8 [1])) 16).req.shamt.toNat := by decide

/-- SwizzleSelectsLanes and IdentitySwizzleReturnsOperand: indices up to n - 1, and an index of n after good ones. -/
theorem test_witness_swizzle :
    (withEntries (on 0x28 (vec .int32x4 [1, 2])) 4 [0, 1, 2, 3]).req.a = (vec .int32x4 [1, 2]).port ∧
    (vec .int32x4 [1, 2]).Canonical ∧
    (withEntries (on 0x28 (vec .int32x4 [1, 2])) 4 [0, 1, 2, 3]).req.n.toNat = laneCount .int32x4 ∧
    (∀ i < laneCount .int32x4, ((withEntries (on 0x28 (vec .int32x4 [1, 2])) 4 [0, 1, 2, 3]).req.entry i).toNat = i) ∧
    laneCount .int32x4 ≤ ((withEntries (on 0x28 (vec .int32x4 [1, 2])) 4 [0, 3, 4, 9]).req.entry 2).toNat ∧
    ∀ j < 2, ((withEntries (on 0x28 (vec .int32x4 [1, 2])) 4 [0, 3, 4, 9]).req.entry j).toNat < laneCount .int32x4 := by
  decide

/-- ShuffleSelectsFromBoth: indices n - 1, n, 2n - 1, and an index of 2n after good ones. -/
theorem test_witness_shuffle :
    (withEntries (onPair 0x29 (vec .int32x4 [1]) (vec .int32x4 [2])) 4 [3, 4, 7, 0]).req.b = (vec .int32x4 [2]).port ∧
    (∀ i < laneCount .int32x4,
      ((withEntries (onPair 0x29 (vec .int32x4 [1]) (vec .int32x4 [2])) 4 [3, 4, 7, 0]).req.entry i).toNat <
        2 * laneCount .int32x4) ∧
    2 * laneCount .int32x4 ≤
      ((withEntries (onPair 0x29 (vec .int32x4 [1]) (vec .int32x4 [2])) 4 [7, 8]).req.entry 1).toNat ∧
    ∀ j < 1, ((withEntries (onPair 0x29 (vec .int32x4 [1]) (vec .int32x4 [2])) 4 [7, 8]).req.entry j).toNat <
      2 * laneCount .int32x4 := by decide

/-- SelectBlendsByMask, SelectIsBitwiseBlend: a mask with a true and a false lane. -/
theorem test_witness_select :
    (present 0x2A (vec .int32x4 [1]).port (vec .int32x4 [2]).port (vec .bool32x4 [-1]).port).req.m =
      (vec .bool32x4 [-1]).port ∧
    (vec .bool32x4 [-1]).tag = boolTag (vec .int32x4 [1]).tag ∧ (vec .bool32x4 [-1]).Canonical ∧
    (vec .int32x4 [1]).Canonical ∧ lane 32 (vec .bool32x4 [-1]).bits 0 = BitVec.allOnes 32 ∧
    lane 32 (vec .bool32x4 [-1]).bits 3 = 0 := by decide

/-- RangeTestIsMagnitudeTest: lanes that pass its test up to the greatest, and a first that does not. -/
theorem test_witness_range_test :
    (on 0x70 (vec .float32x4 [0x4EFFFFFF, 0xCEFFFFFF])).req.a = (vec .float32x4 [0x4EFFFFFF, 0xCEFFFFFF]).port ∧
    (∀ i < 4, (lane 32 (vec .float32x4 [0x4EFFFFFF, 0xCEFFFFFF]).bits i &&& 0x7FFFFFFF).toNat < 0x4F000000) ∧
    ¬ (lane 32 (vec .float32x4 [0x4EFFFFFF, 0xCF000000]).bits 1 &&& 0x7FFFFFFF).toNat < 0x4F000000 ∧
    ∀ j < 1, (lane 32 (vec .float32x4 [0x4EFFFFFF, 0xCF000000]).bits j &&& 0x7FFFFFFF).toNat < 0x4F000000 := by decide

/-- CvtConvertsValues: the greatest convertible lanes, and the least that are not, after one that is. -/
theorem test_witness_cvt :
    (∀ i < 4, InIntRange (lane 32 (vec .float32x4 [0x4EFFFFFF, 0xCEFFFFFF]).bits i)) ∧
    InIntRange (lane 32 (vec .float32x4 [0x4EFFFFFF, 0x4F000000, 0xCF000000]).bits 0) ∧
    ¬ InIntRange (lane 32 (vec .float32x4 [0x4EFFFFFF, 0x4F000000, 0xCF000000]).bits 1) ∧
    ¬ InIntRange (lane 32 (vec .float32x4 [0x4EFFFFFF, 0x4F000000, 0xCF000000]).bits 2) ∧
    ¬ InIntRange 0x7FC00000 := by
  unfold InIntRange
  decide +kernel

/-- FromBitsKeepsBits, FromBitsRoundTrip: a canonical bool view of numeric bits, and a view whose first bad lane is 1. -/
theorem test_witness_fromBits :
    (on 0x131 (vec .int32x4 [-1])).req.a = (vec .int32x4 [-1]).port ∧ (vec .int32x4 [-1]).Canonical ∧
    Vec.Canonical { tag := .bool32x4, bits := (vec .int32x4 [-1]).bits } ∧
    FirstBadLane [{ tag := .bool32x4, bits := (vec .int32x4 [-1, 5]).bits }] 1 :=
  ⟨by decide, by decide, by decide, .inl (by decide)⟩

/-- The equality statements: equal bits under two tags, different NaN patterns, and the two zeros. -/
theorem test_witness_equality :
    (onPair 0x38 (vec .float32x4 [1]) (vec .int32x4 [1])).req.b = (vec .int32x4 [1]).port ∧
    (vec .float32x4 [1]).bits = (vec .int32x4 [1]).bits ∧ (vec .float32x4 [1]).tag ≠ (vec .int32x4 [1]).tag ∧
    (isNaN 0x7FC00000 ∧ isNaN 0xFFC00001) ∧ (isZero 0x00000000 ∧ isZero 0x80000000) := by decide

/-- BoolReductions: the last lane alone true, all false, all true, the last lane alone false. -/
theorem test_witness_reductions :
    (∃ i < laneCount .bool32x4, lane 32 (vec .bool32x4 [0, 0, 0, -1]).bits i = BitVec.allOnes 32) ∧
    (∀ i < laneCount .bool32x4, lane 32 (vec .bool32x4 []).bits i = 0) ∧
    (∀ i < laneCount .bool32x4, lane 32 (vec .bool32x4 [-1, -1, -1, -1]).bits i = BitVec.allOnes 32) ∧
    (∃ i < laneCount .bool32x4, lane 32 (vec .bool32x4 [-1, -1, -1, 0]).bits i = 0) := by decide

/-- A port outside a row's tags makes the row's operands unaccepted. -/
theorem not_onA {ts : List Tag} {r : Request} (h : ∀ t ∈ ts, r.a.tag ≠ some t) (vs : List Vec) : ¬ OnA ts r vs := by
  rintro ⟨a, ha, ht, _⟩
  exact h _ ht (by rw [ha]; rfl)

/-- So does a B whose tag is not A's. -/
theorem not_onPair {ts : List Tag} {r : Request} (h : r.b.tag ≠ r.a.tag) (vs : List Vec) : ¬ OnPair ts r vs := by
  rintro ⟨a, b, ha, _, hb, hab, _⟩
  exact h (by rw [ha, hb, port_tag, port_tag, hab])

/-- RejectsOtherOperands, a row on A: a tag outside the set, and tag 7. -/
theorem test_witness_rejects_unary :
    (∀ vs, ¬ Accepted .neg (on 8 (vec .bool32x4 [])).req vs) ∧ (∀ vs, ¬ Accepted .sqrt (on 0xD (vec .int32x4 [])).req vs) ∧
    (∀ vs, ¬ Accepted .not (on 0x23 (vec .float32x4 [])).req vs) ∧
    (∀ vs, ¬ Accepted .extractLane (present 2 Port.none Port.none Port.none).req vs) ∧
    (∀ vs, ¬ Accepted .anyTrue (on 0x3B (vec .int32x4 [])).req vs) :=
  ⟨not_onA (by decide), not_onA (by decide), not_onA (by decide), not_onA (by decide), not_onA (by decide)⟩

/-- RejectsOtherOperands, the other rows: tags that differ, tag 7 on B, a wrong N, a wrong mask, a same-tag CVT, TT = 7. -/
theorem test_witness_rejects_others :
    (∀ vs, ¬ Accepted .add (onPair 9 (vec .int32x4 []) (vec .int16x8 [])).req vs) ∧
    (∀ vs, ¬ Accepted .bitEq (on 0x38 (vec .int32x4 [])).req vs) ∧
    (∀ vs, ¬ Accepted (.construct (some .int32x4)) (withEntries State.reset 3 []).req vs) ∧
    (∀ vs, ¬ Accepted (.construct none) State.reset.req vs) ∧
    (∀ vs, ¬ Accepted .select
      (present 0x2A (vec .int32x4 []).port (vec .int32x4 []).port (vec .bool16x8 []).port).req vs) ∧
    (∀ vs, ¬ Accepted (.cvt (some .float32x4)) (on 0x30 (vec .float32x4 [])).req vs) ∧
    (∀ vs, ¬ Accepted (.fromBits none) (on 0x1F1 (vec .int32x4 [])).req vs) := by
  refine ⟨not_onPair (by decide), ?_, ?_, ?_, ?_, ?_, ?_⟩
  · rintro vs ⟨a, b, _, hb, _⟩
    exact absurd (congrArg Port.tag hb) (by rw [port_tag]; exact fun h => nomatch h)
  · rintro vs ⟨t, ht, hn, _⟩
    cases ht
    exact absurd hn (by decide)
  · rintro vs ⟨t, ht, _⟩
    exact nomatch ht
  · rintro vs ⟨a, b, m, ha, _, _, hm, hmt, _⟩
    have h1 : some .int32x4 = some a.tag := congrArg Port.tag ha
    have h2 : some .bool16x8 = some m.tag := congrArg Port.tag hm
    rw [← Option.some.inj h1, ← Option.some.inj h2] at hmt
    exact absurd hmt (by decide)
  · rintro vs ⟨a, ha, _, h⟩
    have h1 : some .float32x4 = some a.tag := congrArg Port.tag ha
    rcases h with ⟨_, h⟩ | ⟨h, _⟩
    · exact absurd h (by decide)
    · rw [← Option.some.inj h1] at h
      exact absurd h (by decide)
  · rintro vs ⟨h, _⟩
    exact absurd h (by decide)

/-- NonCanonicalOperandsAreUnsupported: the second operand's lane 0, the first operand being canonical. -/
theorem test_witness_nonCanonical :
    Accepted .and (onPair 0x20 (vec .bool32x4 [-1]) (vec .bool32x4 [1])).req [vec .bool32x4 [-1], vec .bool32x4 [1]] ∧
    FirstBadLane [vec .bool32x4 [-1], vec .bool32x4 [1]] 0 :=
  ⟨⟨_, _, rfl, by decide, rfl, rfl, rfl⟩, .inr ⟨by decide, .inl (by decide)⟩⟩

/-- ChecksAreMadeInOrder: an illegal word, unaccepted operands (see the rejections above), a bad lane, each presented. -/
theorem test_witness_check_order :
    (present 0x00000209 Port.none Port.none Port.none).req.reqValid = true ∧
    decode (present 0x00000209 Port.none Port.none Port.none).req.opw = .error .reservedBits ∧
    decode (on 0x00000008 (vec .bool32x4 [])).req.opw = .ok .neg ∧
    decode (onPair 0x00000020 (vec .bool32x4 [-1]) (vec .bool32x4 [1])).req.opw = .ok .and := by decide

/-- ResultsAreCanonical, UnusedResponseFieldsAreFixed, OperandsAreUnchanged: an EQ and its bool result. -/
theorem test_witness_result :
    ∃ t, exec .eq (onPair 0x18 (vec .int32x4 [1]) (vec .int32x4 [1])) = .next t ∧
      t.rsp.rv = (vec .bool32x4 [-1, -1, -1, -1]).port := ⟨_, rfl, by decide⟩

/-- StepKeepsResponseLegal: a state that holds a response, and its step. -/
theorem test_witness_invariant :
    State.Inv { on 8 (vec .int32x4 [1]) with rspValid := true, rsp := respondScalar 1, answered := true } ∧
    ∃ t, step { on 8 (vec .int32x4 [1]) with rspValid := true, rsp := respondScalar 1, answered := true } = .next t :=
  ⟨⟨.inr (.inl (by decide)), by decide⟩, _, rfl⟩

/-- UnnamedPortsAreIgnored: two requests for NEG that differ on B. -/
theorem test_witness_unnamed_ports :
    AgreeOnPorts .neg (onPair 8 (vec .int32x4 [1]) (vec .int32x4 [2])).req (on 8 (vec .int32x4 [1])).req ∧
    (onPair 8 (vec .int32x4 [1]) (vec .int32x4 [2])).draws = (on 8 (vec .int32x4 [1])).draws ∧
    (onPair 8 (vec .int32x4 [1]) (vec .int32x4 [2])).req ≠ (on 8 (vec .int32x4 [1])).req := ⟨rfl, rfl, by decide⟩

/-- SameRequestSameResponse: the same request in two states. -/
theorem test_witness_same_request :
    mayDraw .neg = false ∧ (on 8 (vec .int32x4 [1])).req = { on 8 (vec .int32x4 [1]) with draws := 7 }.req ∧
    on 8 (vec .int32x4 [1]) ≠ { on 8 (vec .int32x4 [1]) with draws := 7 } := by decide

/-- RunEndIsItsResponsesOrRefused: a request that does not get Unsupported, and one that does. -/
theorem test_witness_run :
    ¬ UnsupportedRequest (on 8 (vec .int32x4 [1])).req ∧ UnsupportedRequest (on 0x23 (vec .bool32x4 [1])).req := by
  refine ⟨?_, rfl, .not, [vec .bool32x4 [1]], 0, by decide, ⟨_, rfl, by decide, rfl⟩, .inl (.inl (by decide))⟩
  rintro ⟨_, i, vs, k, hd, ha, hk⟩
  cases hd.symm.trans (show decode (on 8 (vec .int32x4 [1])).req.opw = .ok .neg by decide)
  obtain ⟨a, hp, _, rfl⟩ := ha
  have ht : some .int32x4 = some a.tag := congrArg Port.tag hp
  rcases hk with h | ⟨_, _, h, _⟩
  · simp [FirstBadLane, ← Option.some.inj ht, category] at h
  · cases h

/-- A run of three requests, the second of which is refused: the third is still answered, and the run has no end state. -/
theorem test_run_passes_refusal :
    (outcomesOf 3 (State.reset.present [(on 8 (vec .int32x4 [1])).req, (on 0x23 (vec .bool32x4 [1])).req,
      (on 0x23 (vec .int32x4 [-1])).req])).map (fun o => match o with
        | .next r => some r
        | .fault _ => none
        | .refused _ => none) =
      [some (respondVec (vec .int32x4 [-1])), none, some (respondVec (vec .int32x4 [0, -1, -1, -1]))] ∧
    State.reset.runEnd [(on 8 (vec .int32x4 [1])).req, (on 0x23 (vec .bool32x4 [1])).req] =
      .refused (.unsupported 0) := ⟨by decide, rfl⟩

/-- IdleCycleHoldsResponse. -/
theorem test_witness_idle : State.reset.req.reqValid = false := by decide

/-- UnsupportedIsReadAsRefusal: both kinds of response. -/
theorem test_witness_read :
    { State.reset with answered := true, rsp := raise (.unsupported 3) }.answered = true ∧
    { State.reset with answered := true, rsp := raise (.unsupported 3) }.rsp.status = .unsupported ∧
    (raise .illegalRequest).Claimable := ⟨rfl, rfl, by unfold Response.Claimable; decide⟩

end Sys2Proof.Tests
end

/-! Proofs. What the host may rely on in a response: the response register holds a legal, canonical response whenever a
request completes, the request stays as presented, and a port that R33 does not give the operation is not read
(spec/10_state.md, sections 1 and 4). -/

namespace Sys2Proof.Machine

/-! What answering writes -/

theorem answer_eq_next_iff {s t : State} {r : Reply} :
    s.answer r = .next t ↔ (responseOf r).status ≠ .unsupported ∧ t = s.writeResponse (responseOf r) := by
  rcases answer_cases s r with ⟨hs, ha⟩ | ⟨info, rfl, ha⟩
  · simp [ha, hs, eq_comm]
  · simp [ha, responseOf, raise, errorStatus]

theorem answer_eq_refused_iff {s : State} {r : Reply} {e : Refusal} :
    s.answer r = .refused e ↔ ∃ info, r = .error (.unsupported info) ∧ e = .unsupported info := by
  rcases answer_cases s r with ⟨hs, ha⟩ | ⟨info, rfl, ha⟩
  · simp only [ha, reduceCtorEq, false_iff]
    rintro ⟨_, rfl, _⟩
    exact hs rfl
  · simp [ha, eq_comm]

/-- A completed instruction has written one response, and nothing else that the host sees. -/
theorem exec_next_writes {i : Instr} {s t : State} (h : exec i s = .next t) : ∃ r, t = s.writeResponse r := by
  obtain ⟨reply, hr⟩ := exec_eq_answer i s
  exact ⟨_, (answer_eq_next_iff.1 (hr ▸ h)).2⟩

/-! Canonical values (R24) -/

theorem port_injective {u v : Vec} (h : u.port = v.port) : u = v := by
  cases u; cases v; simpa [Vec.port] using h

theorem port_ne_none (v : Vec) : v.port ≠ Port.none := by simp [Vec.port, Port.none]

/-- A canonical value's lanes, read at the lane width of a tag known to be its own. -/
theorem Vec.Canonical.lane_at {v : Vec} {t : Tag} (hv : v.Canonical) (ht : v.tag = t) (hb : category t = .bool) {i : Nat}
    (hi : i < laneCount t) :
    Machine.lane (laneWidth t) v.bits i = 0 ∨ Machine.lane (laneWidth t) v.bits i = BitVec.allOnes (laneWidth t) := by
  subst ht
  exact hv hb i hi

theorem laneIn_of_bool {t : Tag} (hb : category t = .bool) (x : Word) :
    laneIn t x = 0 ∨ laneIn t x = BitVec.allOnes (laneWidth t) := by
  simpa only [laneIn, hb] using boolLane_cases _ _

/-- Lanes made from canonical lanes of two values of one tag, by an operation that makes 0 and `ONES_w` of 0 and `ONES_w`. -/
theorem canonical_bitwise {a b : Vec} (ha : a.Canonical) (hb : b.Canonical) (hab : b.tag = a.tag) {bits : Bits}
    {op : BitVec (laneWidth a.tag) → BitVec (laneWidth a.tag) → BitVec (laneWidth a.tag)}
    (hlane : ∀ i, lane (laneWidth a.tag) bits i = op (lane (laneWidth a.tag) a.bits i) (lane (laneWidth a.tag) b.bits i))
    (hop : ∀ x y, (x = 0 ∨ x = BitVec.allOnes _) → (y = 0 ∨ y = BitVec.allOnes _) → op x y = 0 ∨ op x y = BitVec.allOnes _) :
    Vec.Canonical { tag := a.tag, bits := bits } := by
  intro hbool i hi
  have h := hop _ _ (ha.lane_at rfl hbool hi) (hb.lane_at hab hbool hi)
  rwa [← hlane] at h

theorem canonical_not {a : Vec} (ha : a.Canonical) : Vec.Canonical { tag := a.tag, bits := ~~~a.bits } := by
  intro hbool i hi
  simp only [Vec.lane, lane_not _ _ (lane_end_le a.tag hi)]
  rcases ha.lane_at rfl hbool hi with h | h <;> simp [h]

/-! Replies that carry a canonical vector, or none -/

/-- Whatever vector the reply carries is canonical. -/
def CanonicalReply (r : Reply) : Prop := ∀ v, r = .ok (.vec v) → v.Canonical

theorem canonicalReply_vec {v : Vec} (h : v.Canonical) : CanonicalReply (.ok (.vec v)) := by
  rintro _ ⟨⟩
  exact h

theorem canonicalReply_scalar (x : Word) : CanonicalReply (.ok (.scalar x)) := nofun

theorem canonicalReply_error (e : RequestError) : CanonicalReply (.error e) := nofun

/-- After a check, the rest of the rule may use what the check established. -/
theorem canonicalReply_bind {α : Type} {x : Except RequestError α} {f : α → Reply}
    (h : ∀ a, x = .ok a → CanonicalReply (f a)) : CanonicalReply (x >>= f) := by
  cases x with
  | error e => exact canonicalReply_error e
  | ok a => exact h a rfl

theorem responseOf_legal {r : Reply} (h : CanonicalReply r) (hs : (responseOf r).status ≠ .unsupported) :
    (responseOf r).Legal := by
  rcases r with e | ⟨v | x⟩
  · cases e with
    | unsupported info => exact absurd rfl hs
    | _ => exact .inr (.inr ⟨by simp [responseOf, raise, errorStatus], rfl, rfl⟩)
  · exact .inl ⟨rfl, rfl, rfl, v, rfl, h v rfl⟩
  · exact .inr (.inl ⟨rfl, rfl, rfl⟩)

/-- A rule on A alone. -/
theorem canonicalReply_unary {r : Request} {accepts : Tag → Bool} {f : Vec → Reply}
    (h : ∀ a : Vec, a.Canonical → accepts a.tag = true → CanonicalReply (f a)) :
    CanonicalReply (r.unary accepts >>= f) :=
  canonicalReply_bind fun a ha => h a (unary_checked ha).1 (unary_checked ha).2

/-- A rule on A and B of one tag. -/
theorem canonicalReply_binary {r : Request} {accepts : Tag → Bool} {f : Vec × Vec → Reply}
    (h : ∀ a b : Vec, a.Canonical → b.Canonical → b.tag = a.tag → accepts a.tag = true → CanonicalReply (f (a, b))) :
    CanonicalReply (r.binary accepts >>= f) :=
  canonicalReply_bind fun (a, b) hab => by
    obtain ⟨ha, hb, ht, hacc⟩ := binary_checked hab
    exact h a b ha hb ht hacc

/-! The values the rules build are canonical -/

theorem canonical_mapFloat (f : Nat → Word → Word) (a : Vec) : (mapFloat f a).Canonical := canonical_mkFloatVec _

theorem canonical_zipFloat (f : Nat → Word → Word → Word) (a b : Vec) : (zipFloat f a b).Canonical :=
  canonical_mkFloatVec _

theorem canonical_mapInt {f : Int → Int} {a : Vec} (h : category a.tag ≠ .bool) : (mapInt f a).Canonical :=
  canonical_of_not_bool h

theorem canonical_negated {a : Vec} (h : numericTag a.tag = true) :
    (if floatTag a.tag then mapFloat (fun _ x => fNeg x) a else mapInt (fun x => -x) a).Canonical := by
  split
  · exact canonical_mapFloat _ a
  · exact canonical_mapInt (by simpa [numericTag] using h)

theorem canonical_zipInt {g : Int → Int → Int} {a b : Vec} (h : category a.tag ≠ .bool) : (zipInt g a b).Canonical :=
  canonical_of_not_bool h

theorem canonical_zipNumeric {f : Nat → Word → Word → Word} {g : Int → Int → Int} {a b : Vec}
    (h : numericTag a.tag = true) : (zipNumeric f g a b).Canonical := by
  have hnb : category a.tag ≠ .bool := by simpa [numericTag] using h
  unfold zipNumeric
  split
  · exact canonical_zipFloat _ a b
  · exact canonical_zipInt hnb
  · exact canonical_zipInt hnb

theorem category_of_saturatingTag {t : Tag} (h : saturatingTag t = true) : category t ≠ .bool := by
  cases t <;> simp_all [saturatingTag, category]

theorem category_of_intTag {t : Tag} (h : intTag t = true) : category t ≠ .bool := by
  simp_all [intTag]

theorem index_lt_of_checkIndices {r : Request} {n bound : Nat} {u : Unit} (h : checkIndices r n bound = .ok u)
    {i : Nat} (hi : i < n) : r.index i < bound := by
  unfold checkIndices at h
  split at h
  · next hnone => simpa using lowest_eq_none.1 hnone i hi
  · cases h

theorem canonical_swizzled {a : Vec} (ha : a.Canonical) {index : Nat → Nat}
    (hindex : ∀ i < laneCount a.tag, index i < laneCount a.tag) : (mkVec a.tag fun i => a.lane (index i)).Canonical :=
  canonical_mkVec fun hbool i hi => ha hbool _ (hindex i hi)

theorem canonical_shuffled {a b : Vec} (ha : a.Canonical) (hb : b.Canonical) (hab : b.tag = a.tag) {index : Nat → Nat}
    (hindex : ∀ i < laneCount a.tag, index i < 2 * laneCount a.tag) :
    (mkVec a.tag fun i =>
      if index i < laneCount a.tag then a.lane (index i)
      else lane (laneWidth a.tag) b.bits (index i - laneCount a.tag)).Canonical := by
  refine canonical_mkVec fun hbool i hi => ?_
  have := hindex i hi
  split
  · next h => exact ha hbool _ h
  · exact hb.lane_at hab hbool (by omega)

theorem canonical_selected {a b : Vec} (ha : a.Canonical) (hb : b.Canonical) (hab : b.tag = a.tag) {p : Nat → Prop}
    [DecidablePred p] :
    (mkVec a.tag fun i => if p i then a.lane i else lane (laneWidth a.tag) b.bits i).Canonical := by
  refine canonical_mkVec fun hbool i hi => ?_
  split
  · exact ha hbool i hi
  · exact hb.lane_at hab hbool hi

theorem canonicalReply_compareReply (r : Request) (accepts : Tag → Bool) (c : Comparison) :
    CanonicalReply (compareReply r accepts c) :=
  canonicalReply_binary fun _ _ _ _ _ _ => canonicalReply_vec (canonical_mkBoolVec _ _)

theorem canonicalReply_convertToInt (a : Vec) : CanonicalReply (convertToInt a) := by
  unfold convertToInt
  split
  · exact canonicalReply_error _
  · exact canonicalReply_vec (canonical_of_not_bool (show category .int32x4 ≠ .bool by decide))

/-! Every instruction's reply is canonical (R24): the operands are checked on entry (R55), and each rule keeps that. -/

theorem exec_answers_canonicalReply (i : Instr) (s : State) :
    ∃ reply, exec i s = s.answer reply ∧ CanonicalReply reply := by
  cases i with
  | construct tt =>
    cases tt with
    | none => exact ⟨.error .illegalRequest, rfl, canonicalReply_error _⟩
    | some t =>
      refine ⟨_, rfl, canonicalReply_bind fun _ _ => canonicalReply_vec ?_⟩
      exact canonical_mkVec fun hb _ _ => laneIn_of_bool hb _
  | extractLane =>
    exact ⟨_, rfl, canonicalReply_bind fun _ _ => canonicalReply_bind fun _ _ => canonicalReply_scalar _⟩
  | replaceLane =>
    refine ⟨_, rfl, canonicalReply_unary fun a ha _ => canonicalReply_bind fun j _ => canonicalReply_vec ?_⟩
    refine canonical_mkVec fun hb k hk => ?_
    split
    · exact laneIn_of_bool hb _
    · exact ha hb k hk
  | neg => exact ⟨_, rfl, canonicalReply_unary fun _ _ h => canonicalReply_vec (canonical_negated h)⟩
  | add | sub | mul =>
    exact ⟨_, rfl, canonicalReply_binary fun _ _ _ _ _ h => canonicalReply_vec (canonical_zipNumeric h)⟩
  | sqrt | abs | rcpApprox | rsqrtApprox =>
    exact ⟨_, rfl, canonicalReply_unary fun _ _ _ => canonicalReply_vec (canonical_mapFloat _ _)⟩
  | div | min | max | minNum | maxNum =>
    exact ⟨_, rfl, canonicalReply_binary fun _ _ _ _ _ _ => canonicalReply_vec (canonical_zipFloat _ _ _)⟩
  | addSat | subSat =>
    exact ⟨_, rfl, canonicalReply_binary fun _ _ _ _ _ h =>
      canonicalReply_vec (canonical_zipInt (category_of_saturatingTag h))⟩
  | eq | ne | lt | le | gt | ge => exact ⟨_, rfl, canonicalReply_compareReply _ _ _⟩
  | and =>
    refine ⟨_, rfl, canonicalReply_binary fun _ _ ha hb hab _ => canonicalReply_vec ?_⟩
    exact canonical_bitwise ha hb hab (lane_and _ _ _) (by rintro _ _ (rfl | rfl) (rfl | rfl) <;> simp)
  | or =>
    refine ⟨_, rfl, canonicalReply_binary fun _ _ ha hb hab _ => canonicalReply_vec ?_⟩
    exact canonical_bitwise ha hb hab (lane_or _ _ _) (by rintro _ _ (rfl | rfl) (rfl | rfl) <;> simp)
  | xor =>
    refine ⟨_, rfl, canonicalReply_binary fun _ _ ha hb hab _ => canonicalReply_vec ?_⟩
    exact canonical_bitwise ha hb hab (lane_xor _ _ _) (by rintro _ _ (rfl | rfl) (rfl | rfl) <;> simp)
  | not => exact ⟨_, rfl, canonicalReply_unary fun _ ha _ => canonicalReply_vec (canonical_not ha)⟩
  | shl | shrl | shra =>
    exact ⟨_, rfl, canonicalReply_unary fun _ _ h => canonicalReply_vec (canonical_of_not_bool (category_of_intTag h))⟩
  | swizzle =>
    refine ⟨_, rfl, canonicalReply_bind fun a ha => canonicalReply_bind fun _ hi => canonicalReply_vec ?_⟩
    exact canonical_swizzled (counted_checked ha) fun _ => index_lt_of_checkIndices hi
  | shuffle =>
    refine ⟨_, rfl, canonicalReply_bind fun (a, b) hab => canonicalReply_bind fun _ hi => canonicalReply_vec ?_⟩
    obtain ⟨ha, hb, ht⟩ := countedPair_checked hab
    exact canonical_shuffled ha hb ht fun _ => index_lt_of_checkIndices hi
  | select =>
    refine ⟨_, rfl, canonicalReply_bind fun (a, b, m) habm => canonicalReply_vec ?_⟩
    obtain ⟨ha, hb, _, ht, _⟩ := masked_checked habm
    exact canonical_selected ha hb ht
  | cvt tt =>
    refine ⟨_, rfl, canonicalReply_bind fun a _ => ?_⟩
    split
    · exact canonicalReply_convertToInt a
    · exact canonicalReply_vec (canonical_mkFloatVec _)
    · exact canonicalReply_error _
  | fromBits tt =>
    cases tt with
    | none => exact ⟨.error .illegalRequest, rfl, canonicalReply_error _⟩
    | some t =>
      refine ⟨_, rfl, canonicalReply_bind fun _ _ => canonicalReply_bind fun _ hc => canonicalReply_vec ?_⟩
      exact canonical_of_checkCanonical hc
  | bitEq | sameValue | sameValueZero =>
    exact ⟨_, rfl, canonicalReply_bind fun (_, _) _ => canonicalReply_scalar _⟩
  | anyTrue | allTrue => exact ⟨_, rfl, canonicalReply_bind fun _ _ => canonicalReply_scalar _⟩

/-- A completed instruction leaves a legal response. -/
theorem exec_next_legal {i : Instr} {s t : State} (h : exec i s = .next t) : t.rsp.Legal := by
  obtain ⟨reply, hr, hc⟩ := exec_answers_canonicalReply i s
  obtain ⟨hs, rfl⟩ := answer_eq_next_iff.1 (hr ▸ h)
  exact responseOf_legal hc hs

/-- A completed request leaves a legal response, whether its word is legal or not. -/
theorem respond_next_legal {s t : State} (h : respond s = .next t) : t.rsp.Legal := by
  unfold respond at h
  split at h
  · exact exec_next_legal h
  · cases h
    exact responseOf_legal (canonicalReply_error .illegalRequest) (by simp [responseOf, raise, errorStatus])

/-- Settles O49: a step that answers writes a legal response, and an idle one keeps the response it finds. -/
theorem stepKeepsResponseLegal : Obligations.StepKeepsResponseLegal := by
  rintro s t ⟨hlegal, _⟩ hstep
  rcases step_cases s with ⟨reply, _, hr, hs, hn⟩ | ⟨info, _, _, hn⟩ | ⟨_, hn⟩
  · cases hn.symm.trans hstep
    have h := respond_next_legal (hr.trans (answer_eq_next_iff.2 ⟨hs, rfl⟩))
    exact ⟨by simpa using h, by simp⟩
  · cases hn.symm.trans hstep
  · cases hn.symm.trans hstep
    exact ⟨by simpa using hlegal, by simp⟩

/-- Settles O46: the response is legal, and of the legal responses only the vector ones have a value on RV. -/
theorem resultsAreCanonical : Obligations.ResultsAreCanonical := by
  intro i s t v h hv
  rcases exec_next_legal h with ⟨_, _, _, u, hu, hc⟩ | ⟨_, _, hnone⟩ | ⟨_, hnone, _⟩
  · rwa [port_injective (hv.symm.trans hu)]
  · exact absurd (hv.symm.trans hnone) (port_ne_none v)
  · exact absurd (hv.symm.trans hnone) (port_ne_none v)

/-- Settles O47: a completed instruction writes a response, and a legal one. -/
theorem unusedResponseFieldsAreFixed : Obligations.UnusedResponseFieldsAreFixed := by
  intro i s t h
  have hvalid : t.rspValid = true := by
    obtain ⟨r, rfl⟩ := exec_next_writes h
    exact writeResponse_rspValid s r
  refine ⟨hvalid, ?_⟩
  rcases exec_next_legal h with ⟨hst, he, hrs, u, hu, _⟩ | hscalar | herror
  · exact .inl ⟨hst, he, hrs, u, hu⟩
  · exact .inr (.inl hscalar)
  · exact .inr (.inr herror)

/-- Settles O48: writing the response is all that a completed instruction does. -/
theorem operandsAreUnchanged : Obligations.OperandsAreUnchanged := by
  intro i s t h
  obtain ⟨r, rfl⟩ := exec_next_writes h
  exact ⟨writeResponse_req s r, writeResponse_inputs s r⟩

/-! The ports an operation reads (R33) -/

section Ports
variable {r r' : Request}

theorem unary_congr (ha : r.a = r'.a) (accepts : Tag → Bool) : r.unary accepts = r'.unary accepts := by
  simp only [Request.unary, ha]

theorem binary_congr (ha : r.a = r'.a) (hb : r.b = r'.b) (accepts : Tag → Bool) :
    r.binary accepts = r'.binary accepts := by
  simp only [Request.binary, ha, hb]

theorem anyPair_congr (ha : r.a = r'.a) (hb : r.b = r'.b) : r.anyPair = r'.anyPair := by
  simp only [Request.anyPair, ha, hb]

theorem counted_congr (ha : r.a = r'.a) (hn : r.n = r'.n) : r.counted = r'.counted := by
  simp only [Request.counted, ha, hn]

theorem countedPair_congr (ha : r.a = r'.a) (hb : r.b = r'.b) (hn : r.n = r'.n) : r.countedPair = r'.countedPair := by
  simp only [Request.countedPair, ha, hb, hn]

theorem masked_congr (ha : r.a = r'.a) (hb : r.b = r'.b) (hm : r.m = r'.m) : r.masked = r'.masked := by
  simp only [Request.masked, ha, hb, hm]

theorem compareReply_congr (ha : r.a = r'.a) (hb : r.b = r'.b) (accepts : Tag → Bool) (c : Comparison) :
    compareReply r accepts c = compareReply r' accepts c := by
  simp only [compareReply, binary_congr ha hb]

theorem entry_congr (hl : r.l = r'.l) (k : Nat) : r.entry k = r'.entry k := by
  simp only [Request.entry, hl]

theorem index_congr (hl : r.l = r'.l) (k : Nat) : r.index k = r'.index k := by
  simp only [Request.index, entry_congr hl]

theorem checkIndices_congr (hl : r.l = r'.l) (n bound : Nat) : checkIndices r n bound = checkIndices r' n bound := by
  simp only [checkIndices, index_congr hl]

theorem shiftAmount_congr (hs : r.shamt = r'.shamt) : r.shiftAmount = r'.shiftAmount := by
  simp only [Request.shiftAmount, hs]

end Ports

/-- Requests that agree on the ports of the operation, with the same draw, get the same reply. -/
theorem exec_answers_same_reply {i : Instr} {s s' : State} (h : AgreeOnPorts i s.req s'.req) (hd : s.draws = s'.draws) :
    ∃ reply, exec i s = s.answer reply ∧ exec i s' = s'.answer reply := by
  cases i with
  | construct tt =>
    obtain ⟨hn, hl⟩ := h
    exact ⟨_, congrArg s.answer (by simp only [hn, entry_congr hl]), rfl⟩
  | extractLane =>
    obtain ⟨ha, hi⟩ := h
    exact ⟨_, congrArg s.answer (by simp only [unary_congr ha, hi]), rfl⟩
  | replaceLane =>
    obtain ⟨ha, hi, hv⟩ := h
    exact ⟨_, congrArg s.answer (by simp only [unary_congr ha, hi, hv]), rfl⟩
  | neg | sqrt | abs | rcpApprox | rsqrtApprox | not | anyTrue | allTrue | cvt tt | fromBits tt =>
    exact ⟨_, congrArg s.answer (by simp only [unary_congr h, hd]), rfl⟩
  | add | sub | mul | div | min | max | minNum | maxNum | addSat | subSat | and | or | xor =>
    obtain ⟨ha, hb⟩ := h
    exact ⟨_, congrArg s.answer (by simp only [binary_congr ha hb, hd]), rfl⟩
  | eq | ne | lt | le | gt | ge =>
    obtain ⟨ha, hb⟩ := h
    exact ⟨_, congrArg s.answer (compareReply_congr ha hb _ _), rfl⟩
  | bitEq | sameValue | sameValueZero =>
    obtain ⟨ha, hb⟩ := h
    exact ⟨_, congrArg s.answer (by simp only [anyPair_congr ha hb]), rfl⟩
  | shl | shrl | shra =>
    obtain ⟨ha, hs⟩ := h
    exact ⟨_, congrArg s.answer (by simp only [unary_congr ha, shiftAmount_congr hs]), rfl⟩
  | swizzle =>
    obtain ⟨ha, hn, hl⟩ := h
    exact ⟨_, congrArg s.answer (by simp only [counted_congr ha hn, checkIndices_congr hl, index_congr hl]), rfl⟩
  | shuffle =>
    obtain ⟨ha, hb, hn, hl⟩ := h
    exact ⟨_, congrArg s.answer (by simp only [countedPair_congr ha hb hn, checkIndices_congr hl, index_congr hl]), rfl⟩
  | select =>
    obtain ⟨ha, hb, hm⟩ := h
    exact ⟨_, congrArg s.answer (by simp only [masked_congr ha hb hm]), rfl⟩

/-- Settles O51: the two requests get one reply, which fixes the response and the refusal. -/
theorem unnamedPortsAreIgnored : Obligations.UnnamedPortsAreIgnored := by
  intro i s s' hports hdraws
  obtain ⟨reply, hr, hr'⟩ := exec_answers_same_reply hports hdraws
  rw [hr, hr']
  constructor
  · intro t ht
    obtain ⟨hs, rfl⟩ := answer_eq_next_iff.1 ht
    exact ⟨_, answer_eq_next_iff.2 ⟨hs, rfl⟩, rfl⟩
  · intro e he
    exact answer_eq_refused_iff.2 (answer_eq_refused_iff.1 he)

end Sys2Proof.Machine

/-! Proofs. What a response depends on, and the order of responses (spec/20_memory.md R45, R46). -/

namespace Sys2Proof.Machine

/-! One reply, in two states -/

/-- One reply written in two states gives one response, or one refusal. -/
theorem answer_same_outcome (s s' : State) (reply : Reply) :
    (∀ t, s.answer reply = .next t → ∃ t', s'.answer reply = .next t' ∧ t'.rsp = t.rsp) ∧
    (∀ e, s.answer reply = .refused e → s'.answer reply = .refused e) := by
  constructor
  · intro t ht
    obtain ⟨hs, rfl⟩ := answer_eq_next_iff.1 ht
    exact ⟨_, answer_eq_next_iff.2 ⟨hs, rfl⟩, rfl⟩
  · intro e he
    exact answer_eq_refused_iff.2 (answer_eq_refused_iff.1 he)

/-- What a request is answered fixes its response, a refused one's included. -/
theorem responseOf_eq_of_answer_eq {s : State} {r r' : Reply} (h : s.answer r = s.answer r') :
    responseOf r = responseOf r' := by
  rcases answer_cases s r with ⟨_, ha⟩ | ⟨info, rfl, ha⟩
  · obtain ⟨_, heq⟩ := answer_eq_next_iff.1 (h.symm.trans ha)
    exact congrArg State.rsp heq
  · obtain ⟨_, rfl, heq⟩ := answer_eq_refused_iff.1 (h.symm.trans ha)
    cases heq
    rfl

/-- An operation without a draw computes its reply from the request alone: of `draws` its rule reads nothing. -/
theorem exec_answers_same_reply_of_no_draw {i : Instr} {s s' : State} (hi : mayDraw i = false) (hreq : s.req = s'.req) :
    ∃ reply, exec i s = s.answer reply ∧ exec i s' = s'.answer reply := by
  obtain ⟨req, _, _, _, _, _⟩ := s
  obtain ⟨_, _, _, _, _, _⟩ := s'
  obtain rfl : req = _ := hreq
  cases i with
  | add | sub | mul | div | sqrt | rcpApprox | rsqrtApprox => cases hi
  | construct _ | extractLane | replaceLane | neg | abs | min | max | minNum | maxNum | addSat | subSat
  | eq | ne | lt | le | gt | ge | and | or | xor | not | shl | shrl | shra | swizzle | shuffle | select
  | cvt _ | fromBits _ | bitEq | sameValue | sameValueZero | anyTrue | allTrue => exact ⟨_, rfl, rfl⟩

/-- Settles O52: the request alone fixes the reply, and the reply the response or the refusal. -/
theorem sameRequestSameResponse : Obligations.SameRequestSameResponse := by
  intro i s s' hi hreq
  obtain ⟨reply, hr, hr'⟩ := exec_answers_same_reply_of_no_draw hi hreq
  rw [hr, hr']
  exact answer_same_outcome s s' reply

/-! Runs -/

theorem agreeOnPorts_refl (i : Instr) (r : Request) : AgreeOnPorts i r r := by
  cases i <;> simp [AgreeOnPorts]

/-- The request and its draw fix the reply, whether the word is legal or not (R46). -/
theorem respond_answers_same_reply {s s' : State} (hreq : s.req = s'.req) (hd : s.draws = s'.draws) :
    ∃ reply, respond s = s.answer reply ∧ respond s' = s'.answer reply := by
  simp only [respond, State.operationWord, hreq]
  split
  · exact exec_answers_same_reply (hreq ▸ agreeOnPorts_refl _ _) hd
  · exact ⟨.error .illegalRequest, rfl, rfl⟩

theorem responseOf_eq_of_same_request {s s' : State} {r r' : Reply} (hr : respond s = s.answer r)
    (hr' : respond s' = s'.answer r') (hreq : s.req = s'.req) (hd : s.draws = s'.draws) : responseOf r = responseOf r' := by
  obtain ⟨reply, hs, hs'⟩ := respond_answers_same_reply hreq hd
  calc responseOf r = responseOf reply := responseOf_eq_of_answer_eq (hr.symm.trans hs)
    _ = responseOf r' := responseOf_eq_of_answer_eq (hs'.symm.trans hr')

/-- What the host reads after a request, said once for every state that presents it. -/
theorem answerTo_eq_readFields {s : State} {reply : Reply} (hv : s.req.reqValid = true)
    (hr : respond s = s.answer reply) : answerTo s.req s.draws = readFields true (responseOf reply) := by
  have hreq : { s.req with reqValid := true } = s.req := by rw [← hv]
  obtain ⟨reply', t, hr', ht, _, _, _, hread⟩ :=
    afterCycle_of_request (s := { State.reset with req := s.req, draws := s.draws }) hv
  have hreply : responseOf reply' = responseOf reply := responseOf_eq_of_same_request hr' hr rfl rfl
  simp only [answerTo, hreq, ht, hread, hreply]

/-- A cycle that takes a request: the host reads the request's own answer and presents its next signals. -/
theorem afterCycle_reads_answerTo {s : State} (hv : s.req.reqValid = true) :
    ∃ t, afterCycle s = .next t ∧ t.rspValid = true ∧ t.readResponse = answerTo s.req s.draws ∧
      t.req = s.inputs.headD Request.idle ∧ t.inputs = s.inputs.tail := by
  obtain ⟨reply, t, hr, ht, hvalid, hreq, hinputs, hread⟩ := afterCycle_of_request hv
  exact ⟨t, ht, hvalid, hread.trans (answerTo_eq_readFields hv hr).symm, hreq, hinputs⟩

theorem afterCycle_of_idle {s : State} (hv : s.req.reqValid = false) :
    afterCycle s = .next s.idleCycle.nextInputs := by
  simp [afterCycle, step, hv, endCycle]

/-- A run from any state that presents rs, now and next: each cycle of it adds its own request's answer, or nothing. -/
theorem outcomesOf_eq_zipWith_answerTo (rs : List Request) (s : State) (hreq : s.req = rs.headD Request.idle)
    (hinputs : s.inputs = rs.tail) :
    ∃ ds : List Nat, ds.length = (rs.filter (·.reqValid)).length ∧
      outcomesOf rs.length s = List.zipWith answerTo (rs.filter (·.reqValid)) ds := by
  induction rs generalizing s with
  | nil => exact ⟨[], rfl, rfl⟩
  | cons r rs ih =>
    obtain rfl : s.req = r := hreq
    obtain rfl : s.inputs = rs := hinputs
    by_cases hv : s.req.reqValid = true
    · obtain ⟨t, ht, hvalid, hread, htreq, htinputs⟩ := afterCycle_reads_answerTo hv
      obtain ⟨ds, hlen, hds⟩ := ih t htreq htinputs
      exact ⟨s.draws :: ds, by simp [hv, hlen], by simp [outcomesOf, ht, hvalid, hread, hv, hds]⟩
    · obtain ⟨ds, hlen, hds⟩ := ih s.idleCycle.nextInputs (by simp) (by simp)
      have ht := afterCycle_of_idle (eq_false_of_ne_true hv)
      exact ⟨ds, by simp [hv, hlen], by simp [outcomesOf, ht, hv, hds]⟩

/-- Settles O53: presenting rs puts its first request on the ports and the others behind it, and so runs through them. -/
theorem runAnswersEachRequestInOrder : Obligations.RunAnswersEachRequestInOrder := fun rs s =>
  outcomesOf_eq_zipWith_answerTo rs (s.present rs) (present_req s rs) (present_inputs s rs)

end Sys2Proof.Machine

/-! Proofs. The decoder and the encoder are inverse to each other, and the words the decoder rejects are the ones R53 lists
(spec/30_encoding.md R50, R52, R53). -/

namespace Sys2Proof

/-! The fields of an operation word (R50) -/

theorem tagOfCode_tagCode (tt : TagField) : tagOfCode (tagCode tt) = tt := by
  rcases tt with _ | t
  · rfl
  · cases t <;> rfl

theorem tagCode_tagOfCode : ∀ c : BitVec 3, tagCode (tagOfCode c) = c := by decide

theorem tagOfCode_eq_none_iff : ∀ c : BitVec 3, tagOfCode c = none ↔ c.toNat = 7 := by decide

/-- A word is its three fields. -/
theorem append_fields (w : Word) : reservedField w ++ targetField w ++ opField w = w := by
  unfold reservedField targetField opField
  rw [BitVec.extractLsb'_append_extractLsb'_eq_extractLsb' (by rfl),
    BitVec.extractLsb'_append_extractLsb'_eq_extractLsb' (by rfl)]
  exact BitVec.extractLsb'_eq_self

theorem encode_fields (i : Instr) :
    reservedField (encode i) = 0 ∧ opField (encode i) = opNumber i ∧ targetField (encode i) = targetNumber i := by
  open Laws.ReservedBits in
  cases i
  exacts [construct _, extractLane, replaceLane, neg, add, sub, mul, div, sqrt, abs, rcpApprox, rsqrtApprox, min, max,
    minNum, maxNum, addSat, subSat, eq, ne, lt, le, gt, ge, and, or, xor, not, shl, shrl, shra, swizzle, shuffle, select,
    cvt _, fromBits _, bitEq, sameValue, sameValueZero, anyTrue, allTrue]

theorem encode_eq_iff {i : Instr} {w : Word} :
    encode i = w ↔ reservedField w = 0 ∧ opField w = opNumber i ∧ targetField w = targetNumber i := by
  constructor
  · rintro rfl
    exact encode_fields i
  · rintro ⟨hrsv, hop, htt⟩
    rw [← append_fields w, hrsv, hop, htt]
    rfl

/-! The opcode map, read both ways (R52) -/

/-- An instruction stands in the row of its OP number, and its TT code is the one the row takes. -/
theorem opRow_opNumber (i : Instr) :
    (opRow (opNumber i).toNat = .plain i ∧ targetNumber i = 0) ∨
    ∃ (f : TagField → Instr) (tt : TagField),
      opRow (opNumber i).toNat = .targeted f ∧ i = f tt ∧ targetNumber i = tagCode tt := by
  cases i with
  | construct tt => exact .inr ⟨.construct, tt, rfl, rfl, rfl⟩
  | cvt tt => exact .inr ⟨.cvt, tt, rfl, rfl, rfl⟩
  | fromBits tt => exact .inr ⟨.fromBits, tt, rfl, rfl, rfl⟩
  | _ => exact .inl ⟨rfl, rfl⟩

theorem opRow_eq_plain {n : Nat} {i : Instr} (h : opRow n = .plain i) :
    (opNumber i).toNat = n ∧ targetNumber i = 0 ∧ i.wellFormed = true ∧ n ∉ [0x01, 0x30, 0x31] := by
  unfold opRow at h
  split at h <;> cases h <;> decide

theorem opRow_eq_targeted {n : Nat} {f : TagField → Instr} (h : opRow n = .targeted f) :
    n ∈ [0x01, 0x30, 0x31] ∧ (∀ tt, (opNumber (f tt)).toNat = n ∧ targetNumber (f tt) = tagCode tt) ∧
      ∀ tt, (f tt).wellFormed = true ↔ ¬ (tt = none ∧ n ∈ [0x01, 0x31]) := by
  unfold opRow at h
  split at h <;> cases h <;>
    exact ⟨by decide, fun _ => ⟨rfl, rfl⟩, fun tt => by cases tt <;> simp [Instr.wellFormed]⟩

/-- The OP numbers R53 lists. -/
def UnassignedOp (n : Nat) : Prop :=
  n = 0x00 ∨ (0x04 ≤ n ∧ n ≤ 0x07) ∨ n ∈ [0x17, 0x1E, 0x1F, 0x27] ∨ (0x2B ≤ n ∧ n ≤ 0x2F) ∨ (0x32 ≤ n ∧ n ≤ 0x37) ∨
    (0x3D ≤ n ∧ n ≤ 0x3F)

theorem opRow_eq_reserved_iff {n : Nat} (hn : n < 64) : opRow n = .reserved ↔ UnassignedOp n := by
  unfold opRow UnassignedOp
  split <;> simp
  simp only [imp_false] at *
  omega

/-! Decoding, an equation for each row of the opcode map -/

theorem decode_of_reservedField {w : Word} (hrsv : reservedField w ≠ 0) : decode w = .error .reservedBits := if_pos hrsv

section Rows
variable {w : Word} (hrsv : reservedField w = 0)
include hrsv

theorem decode_of_reserved (hrow : opRow (opField w).toNat = .reserved) : decode w = .error .reservedOp := by
  rw [decode, if_neg (not_not.2 hrsv), hrow]

theorem decode_of_plain {i : Instr} (hrow : opRow (opField w).toNat = .plain i) :
    decode w = if targetField w = 0 then .ok i else .error .unusedTarget := by
  rw [decode, if_neg (not_not.2 hrsv), hrow]

theorem decode_of_targeted {f : TagField → Instr} (hrow : opRow (opField w).toNat = .targeted f) :
    decode w = if (f (tagOfCode (targetField w))).wellFormed then .ok (f (tagOfCode (targetField w)))
      else .error .noTargetTag := by
  rw [decode, if_neg (not_not.2 hrsv), hrow]

end Rows

theorem decode_encode {i : Instr} (hwf : i.wellFormed = true) : decode (encode i) = .ok i := by
  obtain ⟨hrsv, hop, htt⟩ := encode_fields i
  rcases opRow_opNumber i with ⟨hrow, hzero⟩ | ⟨f, tt, hrow, hi, hcode⟩
  · rw [decode_of_plain hrsv (by rw [hop, hrow]), if_pos (htt.trans hzero)]
  · rw [decode_of_targeted hrsv (by rw [hop, hrow]), htt, hcode, tagOfCode_tagCode, ← hi, if_pos hwf]

theorem encode_of_decode {w : Word} {i : Instr} (h : decode w = .ok i) : encode i = w ∧ i.wellFormed = true := by
  by_cases hrsv : reservedField w = 0
  · cases hrow : opRow (opField w).toNat with
    | reserved => cases (decode_of_reserved hrsv hrow).symm.trans h
    | plain j =>
      obtain ⟨hop, htt, hwf, _⟩ := opRow_eq_plain hrow
      rw [decode_of_plain hrsv hrow] at h
      split at h
      · next hzero =>
        cases h
        exact ⟨encode_eq_iff.2 ⟨hrsv, (BitVec.eq_of_toNat_eq hop).symm, hzero.trans htt.symm⟩, hwf⟩
      · cases h
    | targeted f =>
      obtain ⟨_, hf, _⟩ := opRow_eq_targeted hrow
      obtain ⟨hop, htt⟩ := hf (tagOfCode (targetField w))
      rw [decode_of_targeted hrsv hrow] at h
      split at h
      · next hwf =>
        cases h
        exact ⟨encode_eq_iff.2 ⟨hrsv, (BitVec.eq_of_toNat_eq hop).symm, (htt.trans (tagCode_tagOfCode _)).symm⟩, hwf⟩
      · cases h
  · cases (decode_of_reservedField hrsv).symm.trans h

theorem ite_ok_ne_ok_iff {c : Prop} [Decidable c] {j : Instr} {e : DecodeError} :
    (∀ i, (if c then .ok j else .error e : Except DecodeError Instr) ≠ .ok i) ↔ ¬ c := by
  by_cases hc : c <;> simp [hc]

/-- The words R53 lists, and no others, are illegal. -/
theorem decode_ne_ok_iff (w : Word) :
    (∀ i, decode w ≠ .ok i) ↔
      reservedField w ≠ 0 ∨ UnassignedOp (opField w).toNat ∨
      ((targetField w).toNat ≠ 0 ∧ (opField w).toNat ∉ [0x01, 0x30, 0x31]) ∨
      ((targetField w).toNat = 7 ∧ (opField w).toNat ∈ [0x01, 0x31]) := by
  by_cases hrsv : reservedField w = 0
  · rw [← opRow_eq_reserved_iff (opField w).isLt]
    cases hrow : opRow (opField w).toNat with
    | reserved => simp [decode_of_reserved hrsv hrow]
    | plain j =>
      obtain ⟨_, _, _, hop⟩ := opRow_eq_plain hrow
      simp only [List.mem_cons, List.not_mem_nil, or_false, not_or] at hop
      rw [decode_of_plain hrsv hrow, ite_ok_ne_ok_iff, ← BitVec.toNat_inj]
      simp [hrsv, hop]
    | targeted f =>
      obtain ⟨hop, _, hwf⟩ := opRow_eq_targeted hrow
      rw [decode_of_targeted hrsv hrow, ite_ok_ne_ok_iff, hwf, not_not, tagOfCode_eq_none_iff]
      simp [hrsv, hop]
  · exact iff_of_true (by simp [decode_of_reservedField hrsv]) (.inl hrsv)

/-- Settles O1: the fields of the encoding name the instruction's row of the opcode map, and its TT. -/
theorem decodeOfEncode : Obligations.DecodeOfEncode := fun _ hwf => decode_encode hwf

/-- Settles O2: the instruction's row of the opcode map gives back the word's OP and TT fields, and the third field is 0. -/
theorem encodeOfDecode : Obligations.EncodeOfDecode := fun _ _ h => encode_of_decode h

end Sys2Proof

/-! Proofs. What a step does with a request: it runs the instruction its operation word decodes to, and answers
IllegalRequest(0) to a word that R53 calls illegal (spec/30_encoding.md R53, R56). -/

namespace Sys2Proof.Machine

theorem respond_of_decode_ok {s : State} {i : Instr} (h : decode s.req.opw = .ok i) : respond s = exec i s := by
  simp [respond, State.operationWord, h]

theorem respond_of_illegal {s : State} (h : ∀ i, decode s.req.opw ≠ .ok i) :
    respond s = s.answer (.error .illegalRequest) := by
  cases hw : decode s.req.opw with
  | ok i => exact absurd hw (h i)
  | error e => simp [respond, State.operationWord, hw, State.answer]

theorem step_of_request {s : State} (hv : s.req.reqValid = true) : step s = endCycle (respond s) := if_pos hv

theorem exec_ne_fault (i : Instr) (s : State) (f : Fault) : exec i s ≠ .fault f := by
  obtain ⟨reply, hr⟩ := exec_eq_answer i s
  rw [hr]
  rcases answer_cases s reply with ⟨_, ha⟩ | ⟨_, _, ha⟩ <;> simp [ha]

/-- What the host finds in the response register after a request that got IllegalRequest(0). -/
theorem step_illegalRequest {s : State} (hv : s.req.reqValid = true)
    (h : respond s = s.answer (.error .illegalRequest)) :
    ∃ t, step s = .next t ∧ t.rspValid = true ∧
      t.rsp = { status := .illegalRequest, errInfo := 0, rv := Port.none, rs := 0 } :=
  ⟨(s.writeResponse (raise .illegalRequest)).nextInputs, by rw [step_of_request hv, h]; rfl, by simp, by simp; rfl⟩

/-- Settles O7: the step is the instruction's own outcome, with the next request presented where there is a next state. -/
theorem stepRunsDecodedInstruction : Obligations.StepRunsDecodedInstruction := by
  intro s i hv hdec
  rw [step_of_request hv, respond_of_decode_ok hdec]
  refine ⟨fun t ht => ?_, fun e he => ?_, exec_ne_fault i s⟩
  · rw [ht, endCycle, nextInputs_eq]
  · rw [he, endCycle]

/-- Settles O3: R53's list is the decoder's, and a step answers an illegal word before it looks at any operand. -/
theorem illegalWordsGetIllegalRequest : Obligations.IllegalWordsGetIllegalRequest := by
  intro w op tt illegal
  have hillegal : illegal ↔ ∀ i, decode w ≠ .ok i := by
    simp only [decode_ne_ok_iff, UnassignedOp, or_assoc]
    rfl
  refine ⟨hillegal, fun h s hv hw => step_illegalRequest hv (respond_of_illegal ?_)⟩
  rw [hw]
  exact hillegal.1 h

end Sys2Proof.Machine

/-! Proofs. The operand checks, for every operation: operands outside the operation's row of R54's table get
IllegalRequest(0), a non-canonical bool lane among accepted operands is refused as Unsupported with that lane (R55), and
nothing else is refused (R177, R195). -/

namespace Sys2Proof.Machine

/-! What a rule answers, by its operands -/

/-- The rule x is for operands vs with P vs, and gets Unsupported for lane k of them where U vs k, and nowhere else. -/
structure ChecksOperands {α : Type} (P : List Vec → Prop) (U : List Vec → Nat → Prop) (x : Except RequestError α) :
    Prop where
  illegal : (∀ vs, ¬ P vs) → x = .error .illegalRequest
  unsupported : ∀ vs k, P vs → U vs k → x = .error (.unsupported (BitVec.ofNat 32 k))
  onlyThere : ∀ info, x = .error (.unsupported info) → ∃ vs k, P vs ∧ U vs k ∧ info = BitVec.ofNat 32 k

theorem not_firstBadLane_nil (k : Nat) : ¬ FirstBadLane [] k := id

theorem firstBadLane_singleton {v : Vec} {k : Nat} : FirstBadLane [v] k ↔ badBoolLane v = some k := by
  simp [firstBadLane_cons, not_firstBadLane_nil]

theorem canonical_of_not_firstBadLane {vs : List Vec} (h : ∀ k, ¬ FirstBadLane vs k) : ∀ v ∈ vs, v.Canonical := by
  induction vs with
  | nil => nofun
  | cons v vs ih =>
    simp only [firstBadLane_cons, not_or, not_and] at h
    have hv : v.Canonical := badBoolLane_eq_none.1 (Option.eq_none_iff_forall_ne_some.2 fun k => (h k).1)
    exact List.forall_mem_cons.2 ⟨hv, ih fun k => (h k).2 hv⟩

section
variable {α β : Type} {P : List Vec → Prop} {U : List Vec → Nat → Prop} {x : Except RequestError α}

/-- It is enough to say what the rule answers where no operand list is accepted, and for one that is. -/
theorem ChecksOperands.of_cases (hillegal : (∀ vs, ¬ P vs) → x = .error .illegalRequest)
    (hbad : ∀ vs k, P vs → U vs k → x = .error (.unsupported (BitVec.ofNat 32 k)))
    (hgood : ∀ vs, P vs → (∀ k, ¬ U vs k) → ∀ info, x ≠ .error (.unsupported info)) : ChecksOperands P U x := by
  refine ⟨hillegal, hbad, fun info hx => ?_⟩
  by_cases hP : ∃ vs, P vs
  · obtain ⟨vs, hvs⟩ := hP
    by_cases hU : ∃ k, U vs k
    · obtain ⟨k, hk⟩ := hU
      cases (hbad vs k hvs hk).symm.trans hx
      exact ⟨vs, k, hvs, hk, rfl⟩
    · exact absurd hx (hgood vs hvs (not_exists.1 hU) info)
  · cases (hillegal (not_exists.1 hP)).symm.trans hx

/-- An operand form, which takes canonical operands. -/
theorem ChecksOperands.of_canonical_ok (hillegal : (∀ vs, ¬ P vs) → x = .error .illegalRequest)
    (hbad : ∀ vs k, P vs → FirstBadLane vs k → x = .error (.unsupported (BitVec.ofNat 32 k)))
    (hok : ∀ vs, P vs → (∀ v ∈ vs, v.Canonical) → ∃ a, x = .ok a) : ChecksOperands P FirstBadLane x := by
  refine .of_cases hillegal hbad fun vs hvs hU => ?_
  obtain ⟨a, ha⟩ := hok vs hvs (canonical_of_not_firstBadLane hU)
  simp [ha]

/-- The rest of a rule keeps what its operand checks answer, where it never gets Unsupported itself. -/
theorem ChecksOperands.bind (h : ChecksOperands P U x) {f : α → Except RequestError β}
    (hf : ∀ a info, f a ≠ .error (.unsupported info)) : ChecksOperands P U (x >>= f) := by
  refine ⟨fun hP => ?_, fun vs k hP hU => ?_, fun info hx => ?_⟩
  · rw [h.illegal hP]
    rfl
  · rw [h.unsupported vs k hP hU]
    rfl
  · cases x with
    | error e =>
      cases hx
      exact h.onlyThere info rfl
    | ok a => exact absurd hx (hf a info)

end

/-! The tag columns of R54's table -/

theorem anyTag_iff (t : Tag) : anyTag t = true ↔ t ∈ allTags := by cases t <;> decide

theorem numericTag_iff (t : Tag) : numericTag t = true ↔ t ∈ [Tag.float32x4, .int32x4, .int16x8, .int8x16] := by
  cases t <;> decide

theorem floatTag_iff (t : Tag) : floatTag t = true ↔ t ∈ [Tag.float32x4] := by cases t <;> decide

theorem intTag_iff (t : Tag) : intTag t = true ↔ t ∈ [Tag.int32x4, .int16x8, .int8x16] := by cases t <;> decide

theorem saturatingTag_iff (t : Tag) : saturatingTag t = true ↔ t ∈ [Tag.int16x8, .int8x16] := by cases t <;> decide

theorem logicalTag_iff (t : Tag) :
    logicalTag t = true ↔ t ∈ [Tag.int32x4, .int16x8, .int8x16, .bool32x4, .bool16x8, .bool8x16] := by cases t <;> decide

theorem boolOnlyTag_iff (t : Tag) : boolOnlyTag t = true ↔ t ∈ [Tag.bool32x4, .bool16x8, .bool8x16] := by
  cases t <;> decide

/-! The operand forms -/

section Forms
variable {r : Request} {accepts : Tag → Bool} {ts : List Tag}

theorem checksOperands_unary (h : ∀ t, accepts t = true ↔ t ∈ ts) :
    ChecksOperands (OnA ts r) FirstBadLane (r.unary accepts) := by
  refine .of_canonical_ok (fun hP => unary_illegal fun a ha => ?_) ?_ ?_
  · exact eq_false_of_ne_true fun ht => hP [a] ⟨a, ha, (h _).1 ht, rfl⟩
  · rintro _ k ⟨a, ha, ht, rfl⟩ hk
    exact unary_unsupported ha ((h _).2 ht) hk
  · rintro _ ⟨a, ha, ht, rfl⟩ hc
    exact ⟨a, unary_ok ha ((h _).2 ht) (hc a (by simp))⟩

theorem checksOperands_binary (h : ∀ t, accepts t = true ↔ t ∈ ts) :
    ChecksOperands (OnPair ts r) FirstBadLane (r.binary accepts) := by
  refine .of_canonical_ok (fun hP => binary_illegal fun a b ha hb ht hab => ?_) ?_ ?_
  · exact hP [a, b] ⟨a, b, ha, (h _).1 ht, hb, hab, rfl⟩
  · rintro _ k ⟨a, b, ha, ht, hb, hab, rfl⟩ hk
    exact binary_unsupported ha ((h _).2 ht) hb hab hk
  · rintro _ ⟨a, b, ha, ht, hb, hab, rfl⟩ hc
    exact ⟨(a, b), binary_ok ha ((h _).2 ht) hb hab (hc a (by simp)) (hc b (by simp))⟩

theorem checksOperands_anyPair : ChecksOperands (OnAnyPair r) FirstBadLane r.anyPair := by
  refine .of_canonical_ok (fun hP => anyPair_illegal fun a b ha hb => hP [a, b] ⟨a, b, ha, hb, rfl⟩) ?_ ?_
  · rintro _ k ⟨a, b, ha, hb, rfl⟩ hk
    exact anyPair_unsupported ha hb hk
  · rintro _ ⟨a, b, ha, hb, rfl⟩ hc
    exact ⟨(a, b), anyPair_ok ha hb (hc a (by simp)) (hc b (by simp))⟩

/-- With N right, SWIZZLE's operands are A alone. -/
theorem counted_eq_unary {a : Vec} (ha : r.a = a.port) (hn : r.n.toNat = laneCount a.tag) :
    r.counted = r.unary anyTag := by
  simp [Request.counted, Request.unary, ha, takePort_any, checkCount_ok hn, bind, Except.bind]

theorem counted_illegal (h : ∀ a : Vec, r.a = a.port → r.n.toNat ≠ laneCount a.tag) :
    r.counted = .error .illegalRequest := by
  rcases takePort_cases r.a anyTag with ⟨a, ha, _, hra⟩ | ha
  · simp [Request.counted, hra, checkCount_of_ne (h a ha), bind, Except.bind]
  · simp [Request.counted, ha, bind, Except.bind]

theorem checksOperands_counted :
    ChecksOperands (fun vs => ∃ a : Vec, r.a = a.port ∧ r.n.toNat = laneCount a.tag ∧ vs = [a]) FirstBadLane
      r.counted := by
  refine .of_canonical_ok (fun hP => counted_illegal fun a ha hn => hP [a] ⟨a, ha, hn, rfl⟩) ?_ ?_
  · rintro _ k ⟨a, ha, hn, rfl⟩ hk
    exact (counted_eq_unary ha hn).trans (unary_unsupported ha rfl hk)
  · rintro _ ⟨a, ha, hn, rfl⟩ hc
    exact ⟨a, counted_ok ha hn (hc a (by simp))⟩

/-- With N right, SHUFFLE's operands are A and B of one tag. -/
theorem countedPair_eq_binary {a : Vec} (ha : r.a = a.port) (hn : r.n.toNat = laneCount a.tag) :
    r.countedPair = r.binary anyTag := by
  simp [Request.countedPair, Request.binary, ha, takePort_any, checkCount_ok hn, bind, Except.bind]

theorem countedPair_illegal
    (h : ∀ a b : Vec, r.a = a.port → r.b = b.port → b.tag = a.tag → r.n.toNat ≠ laneCount a.tag) :
    r.countedPair = .error .illegalRequest := by
  rcases takePort_cases r.a anyTag with ⟨a, ha, _, hra⟩ | ha
  · rcases takePort_cases r.b (· == a.tag) with ⟨b, hb, hbt, hrb⟩ | hb
    · have hn := checkCount_of_ne (h a b ha hb (by simpa using hbt))
      simp [Request.countedPair, hra, hrb, hn, bind, Except.bind]
    · simp [Request.countedPair, hra, hb, bind, Except.bind]
  · simp [Request.countedPair, ha, bind, Except.bind]

theorem checksOperands_countedPair :
    ChecksOperands
      (fun vs => ∃ a b : Vec, r.a = a.port ∧ r.b = b.port ∧ b.tag = a.tag ∧ r.n.toNat = laneCount a.tag ∧ vs = [a, b])
      FirstBadLane r.countedPair := by
  refine .of_canonical_ok
    (fun hP => countedPair_illegal fun a b ha hb hab hn => hP [a, b] ⟨a, b, ha, hb, hab, hn, rfl⟩) ?_ ?_
  · rintro _ k ⟨a, b, ha, hb, hab, hn, rfl⟩ hk
    exact (countedPair_eq_binary ha hn).trans (binary_unsupported ha rfl hb hab hk)
  · rintro _ ⟨a, b, ha, hb, hab, hn, rfl⟩ hc
    exact ⟨(a, b), countedPair_ok ha hb hab hn (hc a (by simp)) (hc b (by simp))⟩

theorem masked_illegal
    (h : ∀ a b m : Vec, r.a = a.port → r.b = b.port → b.tag = a.tag → r.m = m.port → m.tag ≠ boolTag a.tag) :
    r.masked = .error .illegalRequest := by
  rcases takePort_cases r.a anyTag with ⟨a, ha, _, hra⟩ | ha
  · rcases takePort_cases r.b (· == a.tag) with ⟨b, hb, hbt, hrb⟩ | hb
    · rcases takePort_cases r.m (· == boolTag a.tag) with ⟨m, hm, hmt, _⟩ | hm
      · exact absurd (by simpa using hmt) (h a b m ha hb (by simpa using hbt) hm)
      · simp [Request.masked, hra, hrb, hm, bind, Except.bind]
    · simp [Request.masked, hra, hb, bind, Except.bind]
  · simp [Request.masked, ha, bind, Except.bind]

theorem masked_unsupported {a b m : Vec} {k : Nat} (ha : r.a = a.port) (hb : r.b = b.port) (hab : b.tag = a.tag)
    (hm : r.m = m.port) (hmt : m.tag = boolTag a.tag) (h : FirstBadLane [a, b, m] k) :
    r.masked = .error (.unsupported (BitVec.ofNat 32 k)) := by
  have hrb : takePort r.b (· == a.tag) = .ok b := takePort_ok.2 ⟨hb, by simp [hab]⟩
  have hrm : takePort r.m (· == boolTag a.tag) = .ok m := takePort_ok.2 ⟨hm, by simp [hmt]⟩
  simp only [firstBadLane_cons, not_firstBadLane_nil, and_false, or_false] at h
  rcases h with h | ⟨hca, h | ⟨hcb, h⟩⟩
  · simp [Request.masked, ha, takePort_any, hrb, hrm, checkCanonical_of_bad h, bind, Except.bind]
  · simp [Request.masked, ha, takePort_any, hrb, hrm, checkCanonical_of_canonical hca, checkCanonical_of_bad h,
      bind, Except.bind]
  · simp [Request.masked, ha, takePort_any, hrb, hrm, checkCanonical_of_canonical hca, checkCanonical_of_canonical hcb,
      checkCanonical_of_bad h, bind, Except.bind]

theorem checksOperands_masked :
    ChecksOperands
      (fun vs => ∃ a b m : Vec, r.a = a.port ∧ r.b = b.port ∧ b.tag = a.tag ∧ r.m = m.port ∧ m.tag = boolTag a.tag ∧
        vs = [a, b, m])
      FirstBadLane r.masked := by
  refine .of_canonical_ok
    (fun hP => masked_illegal fun a b m ha hb hab hm hmt => hP [a, b, m] ⟨a, b, m, ha, hb, hab, hm, hmt, rfl⟩) ?_ ?_
  · rintro _ k ⟨a, b, m, ha, hb, hab, hm, hmt, rfl⟩ hk
    exact masked_unsupported ha hb hab hm hmt hk
  · rintro _ ⟨a, b, m, ha, hb, hab, hm, hmt, rfl⟩ hc
    exact ⟨(a, b, m), masked_ok ha hb hab hm hmt (hc a (by simp)) (hc b (by simp)) (hc m (by simp))⟩

end Forms

/-! The rules' own checks never get Unsupported -/

theorem checkLaneIndex_ne_unsupported (idx : Word) (t : Tag) (info : Word) :
    checkLaneIndex idx t ≠ .error (.unsupported info) := by
  unfold checkLaneIndex
  split <;> simp

theorem checkIndices_ne_unsupported (r : Request) (n bound : Nat) (info : Word) :
    checkIndices r n bound ≠ .error (.unsupported info) := by
  unfold checkIndices
  split <;> simp

theorem convertToInt_ne_unsupported (a : Vec) (info : Word) : convertToInt a ≠ .error (.unsupported info) := by
  unfold convertToInt
  split <;> simp

/-- A check that never gets Unsupported, before a result. -/
theorem bind_ok_ne_unsupported {α β : Type} {x : Except RequestError α} (hx : ∀ info, x ≠ .error (.unsupported info))
    (f : α → β) (info : Word) : (x >>= fun a => .ok (f a)) ≠ .error (.unsupported info) := by
  cases x with
  | error e => simpa [bind, Except.bind] using hx info
  | ok a => simp [bind, Except.bind]

/-! Every operation's rule -/

/-- The rule of CONSTRUCT: TT must be a tag and N its lane count. -/
theorem execConstruct_checksOperands (tt : TagField) (s : State) :
    ∃ reply, execConstruct tt s = s.answer reply ∧ ChecksOperands (Accepted (.construct tt) s.req) FirstBadLane reply := by
  cases tt with
  | none => exact ⟨_, rfl, fun _ => rfl, fun _ _ ⟨_, h, _⟩ => (by cases h), nofun⟩
  | some t =>
    refine ⟨_, rfl, .bind (.of_canonical_ok (fun hP => ?_) ?_ ?_) fun _ _ => nofun⟩
    · exact checkCount_of_ne fun hn => hP [] ⟨t, rfl, hn, rfl⟩
    · rintro _ k ⟨_, _, _, rfl⟩ hk
      exact absurd hk (not_firstBadLane_nil k)
    · rintro _ ⟨_, ⟨⟩, hn, _⟩ _
      exact ⟨(), checkCount_ok hn⟩

theorem canonical_of_convertTag {a : Vec} (h : convertTag a.tag = true) : a.Canonical :=
  canonical_of_not_bool (by rcases a with ⟨t, _⟩; cases t <;> simp_all [convertTag, category])

/-- A tag that CVT takes with some target. -/
theorem convertTag_of_pairing {t : Tag} {tt : TagField}
    (h : (t = .float32x4 ∧ tt = some .int32x4) ∨ (t = .int32x4 ∧ tt = some .float32x4)) : convertTag t = true := by
  rcases h with ⟨rfl, _⟩ | ⟨rfl, _⟩ <;> rfl

/-- The rule of CVT: the two pairings of tags, neither of which has bool lanes. -/
theorem execCvt_checksOperands (tt : TagField) (s : State) :
    ∃ reply, execCvt tt s = s.answer reply ∧ ChecksOperands (Accepted (.cvt tt) s.req) FirstBadLane reply := by
  refine ⟨_, rfl, .of_cases (fun hP => ?_) ?_ ?_⟩
  · by_cases hA : ∃ a : Vec, s.req.a = a.port ∧ convertTag a.tag = true
    · obtain ⟨a, ha, ht⟩ := hA
      simp only [unary_ok ha ht (canonical_of_convertTag ht), bind, Except.bind]
      split
      · next htag => exact absurd ⟨a, ha, rfl, .inl ⟨htag, rfl⟩⟩ (hP [a])
      · next htag => exact absurd ⟨a, ha, rfl, .inr ⟨htag, rfl⟩⟩ (hP [a])
      · rfl
    · rw [unary_illegal fun a ha => eq_false_of_ne_true fun ht => hA ⟨a, ha, ht⟩]
      rfl
  · rintro _ k ⟨a, _, rfl, hpair⟩ hk
    have hc := badBoolLane_eq_none.2 (canonical_of_convertTag (convertTag_of_pairing hpair))
    simp [firstBadLane_singleton, hc] at hk
  · rintro _ ⟨a, ha, rfl, hpair⟩ _ info
    have ht := convertTag_of_pairing hpair
    rw [unary_ok ha ht (canonical_of_convertTag ht)]
    obtain ⟨t, bits⟩ := a
    rcases hpair with ⟨⟨⟩, rfl⟩ | ⟨⟨⟩, rfl⟩
    · exact convertToInt_ne_unsupported _ info
    · exact nofun

theorem unsupportedAt_fromBits {t : Tag} {a : Vec} {k : Nat} :
    UnsupportedAt (.fromBits (some t)) [a] k ↔ FirstBadLane [a, { a with tag := t }] k := by
  constructor
  · rintro (h | ⟨_, _, ⟨⟩, ⟨⟩, h⟩)
    · exact firstBadLane_cons.2 (.inl (firstBadLane_singleton.1 h))
    · exact h
  · exact fun h => .inr ⟨t, a, rfl, rfl, h⟩

/-- The rule of FROMBITS: the operand must be canonical, and so must its view under TT (R177). -/
theorem execFromBits_checksOperands (t : Tag) (s : State) :
    ∃ reply, execFromBits (some t) s = s.answer reply ∧
      ChecksOperands (Accepted (.fromBits (some t)) s.req) (UnsupportedAt (.fromBits (some t))) reply := by
  refine ⟨_, rfl, .of_cases (fun hP => ?_) ?_ ?_⟩
  · rw [unary_illegal fun a ha => eq_false_of_ne_true fun ht => hP [a] ⟨rfl, a, ha, (anyTag_iff _).1 ht, rfl⟩]
    rfl
  · rintro _ k ⟨_, a, ha, _, rfl⟩ hk
    rcases firstBadLane_cons.1 (unsupportedAt_fromBits.1 hk) with hbad | ⟨hc, hview⟩
    · rw [unary_unsupported ha rfl (firstBadLane_singleton.2 hbad)]
      rfl
    · simp [unary_ok (accepts := anyTag) ha rfl hc, checkCanonical_of_bad (firstBadLane_singleton.1 hview), bind,
        Except.bind]
  · rintro _ ⟨_, a, ha, _, rfl⟩ hk
    simp only [unsupportedAt_fromBits] at hk
    have hc := canonical_of_not_firstBadLane hk
    have ha' := unary_ok (accepts := anyTag) ha rfl (hc a (by simp))
    have hview := checkCanonical_of_canonical (hc { a with tag := t } (by simp))
    simp [ha', hview, bind, Except.bind, pure, Except.pure]

theorem unsupportedAt_iff_firstBadLane {i : Instr} (hi : ∀ t, i ≠ .fromBits (some t)) {vs : List Vec} {k : Nat} :
    UnsupportedAt i vs k ↔ FirstBadLane vs k := by
  simp [UnsupportedAt, hi]

/-- Every operation's rule but that of FROMBITS gets Unsupported for its operands alone. -/
theorem exec_checksOperands_of_ne_fromBits {i : Instr} (hi : ∀ t, i ≠ .fromBits (some t)) (s : State) :
    ∃ reply, exec i s = s.answer reply ∧ ChecksOperands (Accepted i s.req) FirstBadLane reply := by
  cases i with
  | construct tt => exact execConstruct_checksOperands tt s
  | extractLane | replaceLane =>
    exact ⟨_, rfl, (checksOperands_unary anyTag_iff).bind fun _ =>
      bind_ok_ne_unsupported (checkLaneIndex_ne_unsupported _ _) _⟩
  | neg => exact ⟨_, rfl, (checksOperands_unary numericTag_iff).bind fun _ _ => nofun⟩
  | add | sub | mul => exact ⟨_, rfl, (checksOperands_binary numericTag_iff).bind fun (_, _) _ => nofun⟩
  | sqrt | abs | rcpApprox | rsqrtApprox => exact ⟨_, rfl, (checksOperands_unary floatTag_iff).bind fun _ _ => nofun⟩
  | div | min | max | minNum | maxNum =>
    exact ⟨_, rfl, (checksOperands_binary floatTag_iff).bind fun (_, _) _ => nofun⟩
  | addSat | subSat => exact ⟨_, rfl, (checksOperands_binary saturatingTag_iff).bind fun (_, _) _ => nofun⟩
  | eq | ne => exact ⟨_, rfl, (checksOperands_binary anyTag_iff).bind fun (_, _) _ => nofun⟩
  | lt | le | gt | ge => exact ⟨_, rfl, (checksOperands_binary numericTag_iff).bind fun (_, _) _ => nofun⟩
  | and | or | xor => exact ⟨_, rfl, (checksOperands_binary logicalTag_iff).bind fun (_, _) _ => nofun⟩
  | not => exact ⟨_, rfl, (checksOperands_unary logicalTag_iff).bind fun _ _ => nofun⟩
  | shl | shrl | shra => exact ⟨_, rfl, (checksOperands_unary intTag_iff).bind fun _ _ => nofun⟩
  | swizzle =>
    exact ⟨_, rfl, checksOperands_counted.bind fun _ => bind_ok_ne_unsupported (checkIndices_ne_unsupported _ _ _) _⟩
  | shuffle =>
    exact ⟨_, rfl, checksOperands_countedPair.bind fun (_, _) =>
      bind_ok_ne_unsupported (checkIndices_ne_unsupported _ _ _) _⟩
  | select => exact ⟨_, rfl, checksOperands_masked.bind fun (_, _, _) _ => nofun⟩
  | cvt tt => exact execCvt_checksOperands tt s
  | fromBits tt =>
    cases tt with
    | none => exact ⟨_, rfl, fun _ => rfl, fun _ _ ⟨h, _⟩ => (by cases h), nofun⟩
    | some t => exact absurd rfl (hi t)
  | bitEq | sameValue | sameValueZero => exact ⟨_, rfl, checksOperands_anyPair.bind fun (_, _) _ => nofun⟩
  | anyTrue | allTrue => exact ⟨_, rfl, (checksOperands_unary boolOnlyTag_iff).bind fun _ _ => nofun⟩

/-- What every operation answers, by its operands (R54, R55, R177). -/
theorem exec_checksOperands (i : Instr) (s : State) :
    ∃ reply, exec i s = s.answer reply ∧ ChecksOperands (Accepted i s.req) (UnsupportedAt i) reply := by
  by_cases hi : ∃ t, i = .fromBits (some t)
  · obtain ⟨t, rfl⟩ := hi
    exact execFromBits_checksOperands t s
  · have hi := not_exists.1 hi
    obtain ⟨reply, hr, hc⟩ := exec_checksOperands_of_ne_fromBits hi s
    have hU : UnsupportedAt i = FirstBadLane := funext₂ fun _ _ => propext (unsupportedAt_iff_firstBadLane hi)
    exact ⟨reply, hr, hU ▸ hc⟩

theorem exec_of_not_accepted {i : Instr} {s : State} (h : ∀ vs, ¬ Accepted i s.req vs) :
    exec i s = s.answer (.error .illegalRequest) := by
  obtain ⟨reply, hr, hc⟩ := exec_checksOperands i s
  rw [hr, hc.illegal h]

/-- Settles O42: the operand checks fail, whatever row the operation has. -/
theorem unacceptedOperandsAreIllegal : Obligations.UnacceptedOperandsAreIllegal := fun _ _ h =>
  answersError_of_reply (exec_of_not_accepted h) (by simp [errorStatus])

/-- Settles O44: the operand checks, and FROMBITS's of its view, are the only ones that get Unsupported. -/
theorem refusedExactlyWhereUnsupported : Obligations.RefusedExactlyWhereUnsupported := by
  intro i s e
  obtain ⟨reply, hr, hc⟩ := exec_checksOperands i s
  rw [hr, answer_eq_refused_iff]
  constructor
  · rintro ⟨info, hreply, rfl⟩
    obtain ⟨vs, k, hvs, hk, rfl⟩ := hc.onlyThere info hreply
    exact ⟨vs, k, hvs, hk, rfl⟩
  · rintro ⟨vs, k, hvs, hk, rfl⟩
    exact ⟨_, hc.unsupported vs k hvs hk, rfl⟩

/-- Settles O43: a non-canonical operand is among what the operation is refused for. -/
theorem nonCanonicalOperandsAreUnsupported : Obligations.NonCanonicalOperandsAreUnsupported := fun i s vs k hvs hk =>
  (refusedExactlyWhereUnsupported i s _).2 ⟨vs, k, hvs, .inl hk, rfl⟩

/-- Settles O45: a legal word's step is the instruction's outcome, which its operands decide. -/
theorem checksAreMadeInOrder : Obligations.ChecksAreMadeInOrder := by
  intro s hv illegal
  refine ⟨fun h => step_illegalRequest hv (respond_of_illegal h), fun i hdec h => ?_, fun i vs k hdec hvs hk => ?_⟩
  · exact step_illegalRequest hv ((respond_of_decode_ok hdec).trans (exec_of_not_accepted h))
  · rw [step_of_request hv, respond_of_decode_ok hdec, nonCanonicalOperandsAreUnsupported i s vs k hvs hk, endCycle]

end Sys2Proof.Machine

/-! Proofs. Requests written as text (spec/30_encoding.md R57): the operation they name, and what is on their ports. -/

namespace Sys2Proof.Machine

/-! Scalars -/

theorem scalarFits_int_iff {n : Int} : scalarFits (.int n) = true ↔ -2 ^ 31 ≤ n ∧ n < 2 ^ 32 := by
  simp [scalarFits]

theorem toNat_scalarWord_int {n : Int} (h0 : 0 ≤ n) (h : n < 2 ^ 32) : ((scalarWord (.int n)).toNat : Int) = n := by
  simp only [scalarWord, BitVec.toNat_ofInt]
  omega

theorem toInt_scalarWord_int {n : Int} (h : -2 ^ 31 ≤ n) (h0 : n < 0) : (scalarWord (.int n)).toInt = n := by
  simp only [scalarWord, BitVec.toInt_ofInt]
  exact Int.bmod_eq_of_le (by omega) (by omega)

/-! The request of a text -/

theorem requestOfText_eq_some_iff {op : Instr} {o : OperandText} {r : Request} :
    requestOfText op o = some r ↔
      fitsText op o = true ∧ (∀ x ∈ o.scalars, scalarFits x = true) ∧
        r = placeOperands { Request.idle with reqValid := true, opw := encode op } o := by
  simp [requestOfText, and_assoc, eq_comm (a := r)]

@[simp] theorem placeOperands_reqValid (r : Request) (o : OperandText) : (placeOperands r o).reqValid = r.reqValid := by
  cases o <;> rfl

@[simp] theorem placeOperands_opw (r : Request) (o : OperandText) : (placeOperands r o).opw = r.opw := by
  cases o <;> rfl

/-- A text names no operation of an illegal word: TT is written as a tag. -/
theorem wellFormed_of_fitsText {op : Instr} {o : OperandText} (h : fitsText op o = true) : op.wellFormed = true := by
  cases op with
  | construct tt | fromBits tt => cases tt <;> simp_all [fitsText, Instr.wellFormed]
  | _ => rfl

/-- The array port holds the entries listed. -/
theorem entry_of_entryPort {r : Request} {entries : List ScalarText} (hr : r.l = entryPort entries)
    (hlen : entries.length ≤ 16) {k : Nat} (hk : k < entries.length) : r.entry k = scalarWord entries[k] := by
  have hk16 : k < 16 := by omega
  simp [Request.entry, hr, entryPort, List.getD_eq_getElem?_getD, hk16, hk]

/-- N counts the entries listed, and the array port holds them. -/
theorem counts_and_holds_entries {r : Request} {entries : List ScalarText} (hn : r.n = BitVec.ofNat 32 entries.length)
    (hl : r.l = entryPort entries) (hlen : entries.length ≤ 16) :
    r.n.toNat = entries.length ∧ ∀ k (h : k < entries.length), r.entry k = scalarWord entries[k] :=
  ⟨by rw [hn, BitVec.toNat_ofNat, Nat.mod_eq_of_lt (by omega)], fun _ => entry_of_entryPort hl hlen⟩

theorem exists_requestOfText {op : Instr} {o : OperandText} {ports : Request → Prop} (hfit : fitsText op o = true)
    (hscalars : ∀ x ∈ o.scalars, scalarFits x = true)
    (hports : ports (placeOperands { Request.idle with reqValid := true, opw := encode op } o)) :
    ∃ r, requestOfText op o = some r ∧ ports r :=
  ⟨_, requestOfText_eq_some_iff.2 ⟨hfit, hscalars, rfl⟩, hports⟩

/-- Settles O6: the scalars that fit are the ones the 32 bits can hold, and a text's scalars must fit. -/
theorem textScalarsFillTheirPorts : Obligations.TextScalarsFillTheirPorts := by
  refine ⟨fun n h0 h => ⟨scalarFits_int_iff.2 (by omega), toNat_scalarWord_int h0 h⟩,
    fun n h h0 => ⟨scalarFits_int_iff.2 (by omega), toInt_scalarWord_int h h0⟩, fun _ => rfl, rfl, rfl,
    fun op o n hn hout => ?_⟩
  rw [Option.eq_none_iff_forall_ne_some]
  intro r hr
  obtain ⟨_, hfits, _⟩ := requestOfText_eq_some_iff.1 hr
  have := scalarFits_int_iff.1 (hfits _ hn)
  omega

/-- Settles O5: a text that fits gives the request with the operation's encoding and the operands placed, and each row of
R57's table fits. -/
theorem textRequestsDecode : Obligations.TextRequestsDecode := by
  refine ⟨fun op o r hr => ?_, fun a b m i x entries hi hx hentries hlen => ?_⟩
  · obtain ⟨hfit, _, rfl⟩ := requestOfText_eq_some_iff.1 hr
    simpa using decode_encode (wellFormed_of_fitsText hfit)
  intro gives lists
  have hcount : decide (entries.length ≤ 16) = true := decide_eq_true hlen
  have hone : ∀ y ∈ [i], scalarFits y = true := by simpa using hi
  have htwo : ∀ y ∈ [i, x], scalarFits y = true := by simpa using ⟨hi, hx⟩
  have hlists {r : Request} (hn : r.n = BitVec.ofNat 32 entries.length) (hl : r.l = entryPort entries) : lists r :=
    counts_and_holds_entries hn hl hlen
  refine ⟨?construct, ?extractLane, ?replaceLane, ?one, ?two, ?amount, ?swizzle, ?shuffle, ?select, ?cvt, ?fromBits⟩
  case construct => exact fun t => exists_requestOfText hcount hentries (hlists rfl rfl)
  case extractLane => exact exists_requestOfText rfl hone ⟨rfl, rfl⟩
  case replaceLane => exact exists_requestOfText rfl htwo ⟨rfl, rfl, rfl⟩
  case one => exact fun op hop => exists_requestOfText (by fin_cases hop <;> rfl) nofun rfl
  case two => exact fun op hop => exists_requestOfText (by fin_cases hop <;> rfl) nofun ⟨rfl, rfl⟩
  case amount => exact fun op hop => exists_requestOfText (by fin_cases hop <;> rfl) hone ⟨rfl, rfl⟩
  case swizzle => exact exists_requestOfText hcount hentries ⟨rfl, hlists rfl rfl⟩
  case shuffle => exact exists_requestOfText hcount hentries ⟨rfl, rfl, hlists rfl rfl⟩
  case select => exact exists_requestOfText rfl nofun ⟨rfl, rfl, rfl⟩
  case cvt => exact fun t => exists_requestOfText rfl nofun rfl
  case fromBits => exact fun t => exists_requestOfText rfl nofun rfl

end Sys2Proof.Machine

/-! Proofs. Lane access: CONSTRUCT.T, EXTRACT_LANE and REPLACE_LANE, by what `lanein` and `laneout` do with a lane of each
category and by what a rule on one lane of A answers (spec/40_lane_access.md R80 to R82). -/

namespace Sys2Proof.Machine

/-- An encoding read either way: decoding gives the instruction back. -/
theorem encodedAs_of_encode_eq {i : Instr} {w : Word} (h : encode i = w) (hwf : i.wellFormed = true) : EncodedAs i w :=
  ⟨h ▸ decode_encode hwf, h⟩

/-! A lane set from 32 bits, and a lane read as 32 bits (R31, R32) -/

/-- The lane `lanein(T, x)` is, by the category of T (R31). -/
def IsLaneIn (t : Tag) (x : Word) (l : BitVec (laneWidth t)) : Prop :=
  match category t with
  | .float => l = x.setWidth (laneWidth t)
  | .int => l = x.setWidth (laneWidth t)
  | .bool => l = if x = 0 then 0 else BitVec.allOnes (laneWidth t)

theorem isLaneIn_laneIn (t : Tag) (x : Word) : IsLaneIn t x (laneIn t x) := by
  unfold IsLaneIn
  split
  · next h => simp only [laneIn, h]
  · next h => simp only [laneIn, h]
  · next h => by_cases hx : x = 0 <;> simp [laneIn, h, boolLane, hx]

/-- On the two lanes a canonical value has, "all ones" is "not 0". -/
theorem laneOut_of_canonical_bool {t : Tag} (h : category t = .bool) {l : BitVec (laneWidth t)}
    (hl : l = 0 ∨ l = BitVec.allOnes (laneWidth t)) : laneOut t l = if l = 0 then 0 else 1 := by
  have hw : laneWidth t ≠ 0 := (laneWidth_pos t).ne'
  rcases hl with rfl | rfl <;> simp [laneOut, h, hw]

/-! Rules on one lane of A: the index is checked after the operand (R81, R82) -/

/-- A rule that takes A, of any tag, and a lane index below its lane count. -/
def Request.onLane (r : Request) (f : Vec → Nat → Result) : Reply := do
  let a ← r.unary anyTag
  let i ← checkLaneIndex r.idx a.tag
  return f a i

theorem exec_extractLane (s : State) :
    exec .extractLane s = s.answer (s.req.onLane fun a i => .scalar (laneOut a.tag (a.lane i))) := rfl

theorem exec_replaceLane (s : State) :
    exec .replaceLane s = s.answer (s.req.onLane fun a i =>
      .vec (mkVec a.tag fun k => if k = i then laneIn a.tag s.req.val else a.lane k)) := rfl

theorem exec_construct (s : State) {t : Tag} (hn : s.req.n.toNat = laneCount t) :
    exec (.construct (some t)) s = s.answer (.ok (.vec (mkVec t fun k => laneIn t (s.req.entry k)))) := by
  simp [exec, execConstruct, checkCount_ok hn, bind, Except.bind, pure, Except.pure]

section OnLane
variable {r : Request} {a : Vec} (ha : r.a = a.port) (hc : a.Canonical)
include ha hc

theorem onLane_of_index_lt (hi : r.idx.toNat < laneCount a.tag) (f : Vec → Nat → Result) :
    r.onLane f = .ok (f a r.idx.toNat) := by
  have hidx : checkLaneIndex r.idx a.tag = .ok r.idx.toNat := if_pos hi
  simp [Request.onLane, unary_ok (accepts := anyTag) ha rfl hc, hidx, bind, Except.bind, pure, Except.pure]

theorem onLane_of_index_ge (hi : laneCount a.tag ≤ r.idx.toNat) (f : Vec → Nat → Result) :
    r.onLane f = .error (.indexOutOfRange r.idx) := by
  have hidx : checkLaneIndex r.idx a.tag = .error (.indexOutOfRange r.idx) := if_neg (Nat.not_lt.2 hi)
  simp [Request.onLane, unary_ok (accepts := anyTag) ha rfl hc, hidx, bind, Except.bind]

end OnLane

/-- An index past the lanes of A: IndexOutOfRange with IDX, whatever the rule. -/
theorem answersError_of_onLane {i : Instr} {s : State} {a : Vec} {f : Vec → Nat → Result}
    (hexec : exec i s = s.answer (s.req.onLane f)) (ha : s.req.a = a.port) (hc : a.Canonical)
    (hi : laneCount a.tag ≤ s.req.idx.toNat) : AnswersError i s .indexOutOfRange s.req.idx :=
  answersError_of_reply (e := .indexOutOfRange s.req.idx) (by rw [hexec, onLane_of_index_ge ha hc hi])
    (by simp [errorStatus])

/-! The obligations -/

/-- Settles O8: with N right every lane is its entry's `lanein`, and R54's table has the other requests. -/
theorem constructBuildsLanes : Obligations.ConstructBuildsLanes := by
  refine ⟨fun t => encodedAs_of_encode_eq (by cases t <;> rfl) rfl, fun s t hn => ?_,
    fun _ => unacceptedOperandsAreIllegal _⟩
  exact answersVec_of_lanes (exec_construct s hn) fun k _ => isLaneIn_laneIn t (s.req.entry k)

/-- Settles O9: the lane read is `laneout`'s, which on a canonical bool lane is 0 or 1. -/
theorem extractLaneReadsLane : Obligations.ExtractLaneReadsLane := by
  refine ⟨encodedAs_of_encode_eq rfl rfl, fun s a ha hc => ⟨fun hi => ?_, ?_⟩, unacceptedOperandsAreIllegal _⟩
  · have hout : AnswersScalar .extractLane s (laneOut a.tag (a.lane s.req.idx.toNat)) :=
      answersScalar_of_reply (by rw [exec_extractLane, onLane_of_index_lt ha hc hi])
    split
    · next h => simpa only [laneOut, h] using hout
    · next h => simpa only [laneOut, h] using hout
    · next h => rwa [laneOut_of_canonical_bool h (hc h _ hi)] at hout
  · exact answersError_of_onLane (exec_extractLane s) ha hc

/-- Settles O10: lane IDX is VAL's `lanein`, and every other lane is A's own. -/
theorem replaceLaneSetsOneLane : Obligations.ReplaceLaneSetsOneLane := by
  refine ⟨encodedAs_of_encode_eq rfl rfl, fun s a ha hc => ⟨fun hi => ?_, ?_⟩, unacceptedOperandsAreIllegal _⟩
  · have hexec := (exec_replaceLane s).trans (congrArg s.answer (onLane_of_index_lt ha hc hi _))
    refine answersVec_of_lanes hexec fun k _ => ⟨fun hk => if_neg hk, fun hk => ?_⟩
    rw [if_pos hk]
    exact isLaneIn_laneIn a.tag s.req.val
  · exact answersError_of_onLane (exec_replaceLane s) ha hc

end Sys2Proof.Machine

/-! Proofs. Rounding to nearest even: `roundPattern` as rounding of a real, and which binary32 value is nearest
(spec/41_arithmetic.md R104). -/

namespace Sys2Proof.Machine

/-! Rounding a real -/

/-- The real x, in units of 2^-149, rounds to q spacings of 2^k, the spacing of the binary32 values of its magnitude: to
the nearest, and to an even q from halfway. -/
structure RoundsTo (x : ℝ) (k q : ℕ) : Prop where
  near : |q - x / 2 ^ k| ≤ 1 / 2
  even_of_tie : |q - x / 2 ^ k| = 1 / 2 → q % 2 = 0
  normal : k = 0 ∨ 2 ^ 23 ≤ x / 2 ^ k
  below : x / 2 ^ k < 2 ^ 24

/-- r is the finite binary32 value nearest to the real x, in units of 2^-149, and even where another is as near. -/
def NearestReal (x : ℝ) (r : Word) : Prop :=
  IsFinite r ∧ ∀ f, IsFinite f →
    |(fval r : ℝ) - x| ≤ |(fval f : ℝ) - x| ∧
    (fval f ≠ fval r → |(fval f : ℝ) - x| = |(fval r : ℝ) - x| → r.toNat % 2 = 0)

/-- The midpoint between the greatest finite value and 2^128, in units of 2^-149. -/
def overflowMidpoint : ℝ := (2 ^ 25 - 1) * 2 ^ 252

section RoundsTo
variable {x : ℝ} {k q : ℕ} (h : RoundsTo x k q)
include h

theorem RoundsTo.le : q ≤ 2 ^ 24 := by
  have := abs_le.1 h.near
  have := h.below
  have : (q : ℝ) < ((2 ^ 24 + 1 : ℕ) : ℝ) := by push_cast; linarith
  exact Nat.lt_succ_iff.1 (Nat.cast_lt.1 this)

theorem RoundsTo.ge (hn : 2 ^ 23 ≤ x / 2 ^ k) : 2 ^ 23 ≤ q := by
  have := abs_le.1 h.near
  have : ((2 ^ 23 : ℕ) : ℝ) < ((q + 1 : ℕ) : ℝ) := by push_cast; linarith
  exact Nat.lt_succ_iff.1 (Nat.cast_lt.1 this)

theorem RoundsTo.zero_or_ge : k = 0 ∨ 2 ^ 23 ≤ q := h.normal.imp_right h.ge

/-- The pattern of the rounded value is below infinity's exactly when x is below the overflow midpoint. -/
theorem RoundsTo.pattern_lt_iff : k * 2 ^ 23 + q < infPattern ↔ x < overflowMidpoint := by
  have hx : x = x / 2 ^ k * 2 ^ k := by field_simp
  have hle := h.le
  obtain hk | rfl | hk : k ≤ 252 ∨ k = 253 ∨ 254 ≤ k := by omega
  · have hmid : x < overflowMidpoint := by
      have hpow : (2 : ℝ) ^ k ≤ 2 ^ 252 := pow_le_pow_right₀ (by norm_num) hk
      calc x = x / 2 ^ k * 2 ^ k := hx
        _ < 2 ^ 24 * 2 ^ k := by gcongr; exact h.below
        _ ≤ 2 ^ 24 * 2 ^ 252 := by gcongr
        _ ≤ overflowMidpoint := by unfold overflowMidpoint; gcongr; norm_num
    simp only [hmid, iff_true, infPattern]
    omega
  · have hmid : x < overflowMidpoint ↔ x / 2 ^ 253 < 2 ^ 24 - 1 / 2 := by
      rw [overflowMidpoint, div_lt_iff₀ (by positivity)]
      norm_num
    rw [hmid, infPattern]
    have hnear := abs_le.1 h.near
    constructor
    · intro hlt
      by_contra hge
      have hq : q ≤ 2 ^ 24 - 1 := by omega
      have hqr : (q : ℝ) ≤ 2 ^ 24 - 1 := by exact_mod_cast (by omega : (q : ℤ) ≤ 2 ^ 24 - 1)
      have hq' : (q : ℝ) = ((2 ^ 24 - 1 : ℕ) : ℝ) := by push_cast; linarith
      have heven := h.even_of_tie (by rw [abs_of_nonpos] <;> linarith)
      rw [Nat.cast_inj] at hq'
      omega
    · intro hlt
      have : (q : ℝ) < ((2 ^ 24 : ℕ) : ℝ) := by push_cast; linarith
      have := Nat.cast_lt.1 this
      omega
  · have hn : 2 ^ 23 ≤ x / 2 ^ k := h.normal.resolve_left (by omega)
    have hq := h.ge hn
    have hmid : overflowMidpoint ≤ x := by
      have hpow : (2 : ℝ) ^ 254 ≤ 2 ^ k := pow_le_pow_right₀ (by norm_num) hk
      calc overflowMidpoint ≤ 2 ^ 23 * 2 ^ 254 := by unfold overflowMidpoint; norm_num
        _ ≤ x / 2 ^ k * 2 ^ k := by gcongr
        _ = x := hx.symm
    simp only [hmid.not_gt, iff_false, infPattern]
    omega

/-- No multiple of the spacing is nearer to x. -/
theorem RoundsTo.nearest_multiple (m : ℤ) :
    |(q : ℝ) * 2 ^ k - x| ≤ |m * 2 ^ k - x| ∧ (m ≠ q → |m * 2 ^ k - x| = |q * 2 ^ k - x| → q % 2 = 0) := by
  have hscale (z : ℝ) : |z * 2 ^ k - x| = |z - x / 2 ^ k| * 2 ^ k := by
    rw [show z * 2 ^ k - x = (z - x / 2 ^ k) * 2 ^ k by field_simp, abs_mul,
      abs_of_pos (a := (2 : ℝ) ^ k) (by positivity)]
  by_cases hm : m = q
  · subst hm
    exact ⟨le_rfl, fun hne => absurd rfl hne⟩
  have hfar : (1 : ℝ) ≤ |m - x / 2 ^ k| + |q - x / 2 ^ k| := by
    calc (1 : ℝ) ≤ |(m : ℝ) - q| := by exact_mod_cast Int.one_le_abs (sub_ne_zero.2 hm)
      _ ≤ |m - x / 2 ^ k| + |x / 2 ^ k - q| := abs_sub_le _ _ _
      _ = _ := by rw [abs_sub_comm (q : ℝ)]
  have hnear := h.near
  rw [hscale, hscale]
  refine ⟨mul_le_mul_of_nonneg_right (by linarith) (by positivity), fun _ he => h.even_of_tie ?_⟩
  have := mul_right_cancel₀ (by positivity) he
  linarith

/-- No value that is a multiple of the spacing, or smaller than the values of x's magnitude, is nearer to x. -/
theorem RoundsTo.nearest {z : ℤ} (hz : (∃ m : ℤ, z = m * 2 ^ k) ∨ |z| < 2 ^ (23 + k)) :
    |(q : ℝ) * 2 ^ k - x| ≤ |z - x| ∧ (z ≠ q * 2 ^ k → |z - x| = |q * 2 ^ k - x| → q % 2 = 0) := by
  by_cases hm : ∃ m : ℤ, z = m * 2 ^ k
  · obtain ⟨m, rfl⟩ := hm
    obtain ⟨hle, htie⟩ := h.nearest_multiple m
    push_cast
    exact ⟨hle, fun hne => htie (by rintro rfl; exact hne rfl)⟩
  · have hsmall : |(z : ℝ)| < 2 ^ (23 + k) := by exact_mod_cast hz.resolve_left hm
    have hk : k ≠ 0 := by rintro rfl; exact hm ⟨z, by simp⟩
    have hn : (2 : ℝ) ^ 23 * 2 ^ k ≤ x := (le_div_iff₀ (by positivity)).1 (h.normal.resolve_left hk)
    have hlt : |(q : ℝ) * 2 ^ k - x| < |z - x| := by
      calc |(q : ℝ) * 2 ^ k - x| ≤ |((2 ^ 23 : ℤ) : ℝ) * 2 ^ k - x| := (h.nearest_multiple _).1
        _ = x - 2 ^ 23 * 2 ^ k := by push_cast; rw [abs_of_nonpos (by linarith)]; ring
        _ < x - z := by rw [← pow_add]; linarith [le_abs_self (z : ℝ)]
        _ ≤ |z - x| := by rw [abs_sub_comm]; exact le_abs_self _
    exact ⟨hlt.le, fun _ he => absurd he hlt.ne'⟩

end RoundsTo

/-! Rounded patterns -/

theorem isFinite_mkFloat_iff (s : Bool) {p : ℕ} (hp : p < 2 ^ 31) : IsFinite (mkFloat s p) ↔ p / 2 ^ 23 ≠ 255 := by
  rw [IsFinite, expField_mkFloat s hp]

/-- `magnitude_shape`, of the signed value. -/
theorem fval_shape (f : Word) (k : ℕ) : (∃ m : ℤ, fval f = m * 2 ^ k) ∨ |fval f| < 2 ^ (23 + k) := by
  have habs : |fval f| = magnitude f := by unfold fval; split <;> simp
  rcases magnitude_shape f k with ⟨m, hm⟩ | hlt
  · refine .inl ?_
    unfold fval
    split
    · exact ⟨-m, by rw [hm]; push_cast; ring⟩
    · exact ⟨m, by rw [hm]; push_cast; ring⟩
  · exact .inr (by rw [habs]; exact_mod_cast hlt)

theorem fval_mkFloat (s : Bool) {p : ℕ} (hp : p < 2 ^ 31) :
    fval (mkFloat s p) = if s then -(magnitude (mkFloat s p) : ℤ) else magnitude (mkFloat s p) := by
  rw [fval, signBit_mkFloat s hp]

/-- Below the overflow midpoint the pattern of the rounded value is the nearest finite value, of either sign. -/
theorem RoundsTo.nearestReal {x : ℝ} {k q : ℕ} (h : RoundsTo x k q) (hx : x < overflowMidpoint) (s : Bool) :
    NearestReal (if s then -x else x) (mkFloat s (k * 2 ^ 23 + q)) := by
  have hp := h.pattern_lt_iff.2 hx
  rw [infPattern] at hp
  have hp31 : k * 2 ^ 23 + q < 2 ^ 31 := by omega
  have hval : fval (mkFloat s (k * 2 ^ 23 + q)) = if s then -(q * 2 ^ k : ℤ) else q * 2 ^ k := by
    rw [fval_mkFloat s hp31, magnitude_mkFloat s h.le h.zero_or_ge hp31]
    push_cast
    rfl
  have heven : (mkFloat s (k * 2 ^ 23 + q)).toNat % 2 = q % 2 := by
    rw [mkFloat_toNat s hp31]
    cases s <;> simp <;> omega
  refine ⟨(isFinite_mkFloat_iff s hp31).2 (by omega), fun f _ => ?_⟩
  rw [hval, heven]
  cases s
  · have := h.nearest (fval_shape f k)
    push_cast
    exact this
  · have hshape : (∃ m : ℤ, -fval f = m * 2 ^ k) ∨ |-fval f| < 2 ^ (23 + k) := by
      rw [abs_neg]
      exact (fval_shape f k).imp_left fun ⟨m, hm⟩ => ⟨-m, by rw [hm]; ring⟩
    have hflip (y : ℝ) : |y - -x| = |-y - x| := by rw [← abs_neg]; ring_nf
    obtain ⟨hle, htie⟩ := h.nearest hshape
    simp only [if_true, Int.cast_neg, Int.cast_mul, Int.cast_pow, Int.cast_natCast, Int.cast_ofNat, hflip,
      neg_neg] at hle htie ⊢
    exact ⟨hle, fun hne => htie (by rwa [ne_eq, neg_eq_iff_eq_neg])⟩

/-- The rounded quotient of `roundPattern`: the quotient or the next integer, whichever is nearer, the even one from
halfway. -/
theorem near_roundedQuotient (n : ℕ) {u q : ℕ} (hu : 0 < u)
    (hq : q = if 2 * (n % u) > u ∨ (2 * (n % u) = u ∧ n / u % 2 = 1) then n / u + 1 else n / u) :
    |(q : ℝ) - n / u| ≤ 1 / 2 ∧ (|(q : ℝ) - n / u| = 1 / 2 → q % 2 = 0) := by
  have huR : (0 : ℝ) < u := by exact_mod_cast hu
  have hdiv : (n : ℝ) / u = (n / u : ℕ) + (n % u : ℕ) / u := by
    rw [div_eq_iff huR.ne', add_mul, div_mul_cancel₀ _ huR.ne']
    exact_mod_cast (Nat.div_add_mod' n u).symm
  have hnonneg : (0 : ℝ) ≤ (n % u : ℕ) / u := by positivity
  have hlt : ((n % u : ℕ) : ℝ) / u < 1 := (div_lt_one huR).2 (by exact_mod_cast Nat.mod_lt n hu)
  have hle_half : ((n % u : ℕ) : ℝ) / u ≤ 1 / 2 ↔ 2 * (n % u) ≤ u := by
    rw [div_le_div_iff₀ huR two_pos]
    norm_cast
    omega
  have hhalf_le : (1 : ℝ) / 2 ≤ (n % u : ℕ) / u ↔ u ≤ 2 * (n % u) := by
    rw [div_le_div_iff₀ two_pos huR]
    norm_cast
    omega
  rw [hdiv]
  split at hq
  · next hup =>
    have hhalf := hhalf_le.2 (by omega)
    have habs : |(q : ℝ) - ((n / u : ℕ) + (n % u : ℕ) / u)| = 1 - (n % u : ℕ) / u := by
      rw [hq, abs_of_nonneg] <;> push_cast <;> linarith
    rw [habs]
    refine ⟨by linarith, fun htie => ?_⟩
    have := hle_half.1 (by linarith)
    omega
  · next hdown =>
    have habs : |(q : ℝ) - ((n / u : ℕ) + (n % u : ℕ) / u)| = (n % u : ℕ) / u := by
      rw [hq, abs_of_nonpos] <;> linarith
    rw [habs]
    refine ⟨hle_half.2 (by omega), fun htie => ?_⟩
    have := hhalf_le.1 htie.ge
    omega

/-- `roundPattern` takes the spacing from the integer part of num/den. -/
theorem roundPattern_eq (num : ℕ) {den : ℕ} (hden : 0 < den) :
    ∃ k q, RoundsTo (num / den) k q ∧ roundPattern num den = min (k * 2 ^ 23 + q) infPattern := by
  have hunit (k : ℕ) : (num : ℝ) / den / 2 ^ k = num / (den * 2 ^ k : ℕ) := by push_cast; rw [div_div]
  obtain ⟨hnear, htie⟩ := near_roundedQuotient num (u := den * 2 ^ (Nat.log2 (num / den) - 23)) (by positivity) rfl
  refine ⟨Nat.log2 (num / den) - 23, _, ⟨?_, ?_, ?_, ?_⟩, rfl⟩
  · rwa [hunit]
  · rwa [hunit]
  · by_cases hk : Nat.log2 (num / den) - 23 = 0
    · exact .inl hk
    · have hne : num / den ≠ 0 := by intro h0; simp [h0] at hk
      have hpow : 2 ^ 23 * 2 ^ (Nat.log2 (num / den) - 23) ≤ num / den := by
        rw [← pow_add, show 23 + (Nat.log2 (num / den) - 23) = Nat.log2 (num / den) by omega]
        exact Nat.log2_self_le hne
      have hle : (2 : ℝ) ^ 23 * 2 ^ (Nat.log2 (num / den) - 23) ≤ num / den :=
        le_trans (by exact_mod_cast hpow) Nat.cast_div_le
      exact .inr ((le_div_iff₀ (by positivity)).2 hle)
  · have hlt : num < 2 ^ 24 * 2 ^ (Nat.log2 (num / den) - 23) * den := by
      rw [← Nat.div_lt_iff_lt_mul hden, ← pow_add]
      exact Nat.lt_log2_self.trans_le (Nat.pow_le_pow_right (by omega) (by omega))
    rw [div_lt_iff₀ (by positivity), div_lt_iff₀ (by positivity)]
    exact_mod_cast hlt

/-- A real rounds to an infinity from the overflow midpoint on and to the nearest finite value below that. -/
theorem RoundsTo.mkFloat_min {x : ℝ} {k q : ℕ} (h : RoundsTo x k q) (s : Bool) :
    if overflowMidpoint ≤ x then mkFloat s (min (k * 2 ^ 23 + q) infPattern) = mkFloat s infPattern
    else NearestReal (if s then -x else x) (mkFloat s (min (k * 2 ^ 23 + q) infPattern)) := by
  split
  · next hx => rw [min_eq_right (not_lt.1 (mt h.pattern_lt_iff.1 hx.not_gt))]
  · next hx =>
    rw [min_eq_left (h.pattern_lt_iff.2 (not_le.1 hx)).le]
    exact h.nearestReal (not_le.1 hx) s

/-- The integer test of the statements for an overflow, on the real quotient. -/
theorem overflow_iff (num : ℤ) {den : ℕ} (hden : 0 < den) :
    den * ((2 ^ 25 - 1) * 2 ^ 253) ≤ 2 * num.natAbs ↔ overflowMidpoint ≤ |(num : ℝ) / den| := by
  have hdenR : (0 : ℝ) < den := by exact_mod_cast hden
  have hcast : |(num : ℝ)| = num.natAbs := by rw [Nat.cast_natAbs, Int.cast_abs]
  rw [abs_div, abs_of_pos hdenR, le_div_iff₀ hdenR, hcast,
    show overflowMidpoint = ((2 ^ 25 - 1) * 2 ^ 252 : ℕ) by norm_num [overflowMidpoint]]
  norm_cast
  omega

/-- The integer relation of the statements, as rounding of the real quotient. -/
theorem nearestEven_iff {num : ℤ} {den : ℕ} (hden : 0 < den) (r : Word) :
    NearestEven num den r ↔
      if overflowMidpoint ≤ |(num : ℝ) / den| then isInf r = true ∧ signBit r = decide (num < 0)
      else NearestReal (num / den) r := by
  have hdenR : (0 : ℝ) < den := by exact_mod_cast hden
  have hdist (z : ℤ) : ((|z * den - num| : ℤ) : ℝ) = |(z : ℝ) - num / den| * den := by
    rw [show (z : ℝ) - num / den = (z * den - num) / den by field_simp, abs_div, abs_of_pos hdenR,
      div_mul_cancel₀ _ hdenR.ne']
    push_cast
    rfl
  have hle (y z : ℤ) : |y * den - num| ≤ |z * den - num| ↔ |(y : ℝ) - num / den| ≤ |(z : ℝ) - num / den| := by
    rw [← Int.cast_le (R := ℝ), hdist, hdist, mul_le_mul_iff_of_pos_right hdenR]
  have heq (y z : ℤ) : |y * den - num| = |z * den - num| ↔ |(y : ℝ) - num / den| = |(z : ℝ) - num / den| := by
    rw [← Int.cast_inj (α := ℝ), hdist, hdist, mul_left_inj' hdenR.ne']
  simp only [NearestEven, NearestReal, overflow_iff num hden, hle, heq]

theorem isInf_mkFloat_infPattern (s : Bool) : isInf (mkFloat s infPattern) = true := by
  cases s <;> decide

theorem overflowMidpoint_pos : 0 < overflowMidpoint := by norm_num [overflowMidpoint]

/-- Settles O21: the model rounds num/den as a real, and the relation of the statement compares the same reals. -/
theorem roundingIsNearestEven : Obligations.RoundingIsNearestEven := by
  intro num den sign hden
  obtain ⟨k, q, h, hp⟩ := roundPattern_eq num hden
  have hsign : ((if sign then -(num : ℤ) else num : ℤ) : ℝ) / den = if sign then -(num / den : ℝ) else num / den := by
    cases sign <;> simp [neg_div]
  have habs : |if sign then -(num / den : ℝ) else num / den| = num / den := by
    cases sign <;> simp [abs_div]
  have hround := h.mkFloat_min sign
  rw [nearestEven_iff hden, hp, hsign, habs]
  split at hround
  · next hover =>
    have hnum : num ≠ 0 := by
      rintro rfl
      rw [Nat.cast_zero, zero_div] at hover
      exact hover.not_gt overflowMidpoint_pos
    rw [if_pos hover, hround, signBit_mkFloat sign (by decide)]
    exact ⟨isInf_mkFloat_infPattern sign, by cases sign <;> simp; omega⟩
  · next hover => rwa [if_neg hover]

end Sys2Proof.Machine

/-! Proofs. The lane operations of float arithmetic: each is the IEEE-754 relation of its operands, on NaNs, infinities,
zeros and the other finite values (spec/41_arithmetic.md R103 to R106, R110 to R122). -/

namespace Sys2Proof.Machine

/-! The kinds of a pattern -/

section Kinds
variable {f : Word}

theorem isNaN_eq_false_of_isInf (h : isInf f = true) : isNaN f = false := by
  simp only [isInf, Bool.and_eq_true, beq_iff_eq] at h
  simp [isNaN, h.2]

theorem isNaN_eq_false_of_isFinite (h : IsFinite f) : isNaN f = false := by
  simp [isNaN, show expField f ≠ 0xFF from h]

theorem isInf_eq_false_of_isFinite (h : IsFinite f) : isInf f = false := by
  simp [isInf, show expField f ≠ 0xFF from h]

theorem isFinite_of_not_isNaN_of_not_isInf (hn : ¬ isNaN f = true) (hi : ¬ isInf f = true) : IsFinite f := by
  intro he
  by_cases hfrac : fracField f = 0
  · exact hi (by simp [isInf, he, hfrac])
  · exact hn (by simp [isNaN, he, hfrac])

theorem isFinite_of_isZero (h : isZero f = true) : IsFinite f := by
  rw [isZero_iff] at h
  rw [IsFinite, expField_eq]
  omega

theorem fval_eq_zero_iff : fval f = 0 ↔ isZero f = true := by
  rw [← magnitude_eq_zero_iff, fval]
  split <;> simp

theorem magnitude_lt_of_isFinite (h : IsFinite f) : magnitude f < 2 ^ 24 * 2 ^ 253 := by
  have he : expField f < 255 := lt_of_le_of_ne (by rw [expField_eq]; omega) h
  have hfrac := fracField_lt f
  rw [magnitude]
  split
  · omega
  · calc (2 ^ 23 + fracField f) * 2 ^ (expField f - 1) < 2 ^ 24 * 2 ^ (expField f - 1) := by gcongr; omega
      _ ≤ 2 ^ 24 * 2 ^ 253 := Nat.mul_le_mul_left _ (Nat.pow_le_pow_right (by omega) (by omega))

end Kinds

theorem isQuietNaN_nanResult (draw i : ℕ) (op : FloatOp) (a b : Word) : IsQuietNaN (nanResult draw i op a b) := by
  have hp := (Config.nanPayload draw i op a b).isLt
  rw [IsQuietNaN, nanResult, ← BitVec.toNat_inj, BitVec.extractLsb'_toNat, mkFloat_toNat _ (by omega),
    Nat.shiftRight_eq_div_pow, BitVec.toNat_allOnes]
  split <;> omega

theorem signBit_mkFloat_roundPattern (s : Bool) (num den : ℕ) : signBit (mkFloat s (roundPattern num den)) = s :=
  signBit_mkFloat s ((roundPattern_le num den).trans_lt (by decide))

theorem isZero_mkFloat_zero (s : Bool) : isZero (mkFloat s 0) = true := by cases s <;> decide

/-! Sums -/

theorem isSum_floatSum {nan : Word} (hnan : IsQuietNaN nan) (a b : Word) : IsSum a b (floatSum nan a b) := by
  refine ⟨fun h => ?_, fun ha hb hs => ?_, fun hb ha => ?_, fun ha hb h0 => ?_, fun ha hb h0 => ?_⟩
  · have hsum : floatSum nan a b = nan := by
      unfold floatSum
      split
      · rfl
      · next hn => rw [if_pos (by grind)]
    rwa [hsum]
  · have hn := isNaN_eq_false_of_isInf ha
    unfold floatSum
    rw [if_neg (by simp [hn, hb]), if_neg (by grind), if_pos ha]
  · simp [floatSum, isNaN_eq_false_of_isInf hb, isNaN_eq_false_of_isFinite ha, isInf_eq_false_of_isFinite ha, hb]
  · simp only [floatSum, isNaN_eq_false_of_isFinite, isInf_eq_false_of_isFinite, ha, hb, h0]
    cases signBit a <;> cases signBit b <;> rfl
  · have hround := roundingIsNearestEven (fval a + fval b).natAbs 1 (decide (fval a + fval b < 0)) Nat.one_pos
    have habs : (if decide (fval a + fval b < 0) then -((fval a + fval b).natAbs : ℤ) else (fval a + fval b).natAbs)
        = fval a + fval b := by
      simp only [decide_eq_true_eq]
      omega
    rw [habs] at hround
    simpa [floatSum, isNaN_eq_false_of_isFinite, isInf_eq_false_of_isFinite, ha, hb, h0] using hround

theorem isSum_fAdd (draw i : ℕ) (a b : Word) : IsSum a b (fAdd draw i a b) :=
  isSum_floatSum (isQuietNaN_nanResult ..) a b

theorem isSum_fSub (draw i : ℕ) (a b : Word) : IsSum a (b ^^^ 0x80000000) (fSub draw i a b) :=
  isSum_floatSum (isQuietNaN_nanResult ..) a (fNeg b)

/-! Products and quotients -/

theorem fval_mul_fval (a b : Word) :
    fval a * fval b =
      if signBit a != signBit b then -((magnitude a * magnitude b : ℕ) : ℤ) else (magnitude a * magnitude b : ℕ) := by
  unfold fval
  cases signBit a <;> cases signBit b <;> simp

theorem signed_quotient (s t : Bool) (n : ℕ) :
    (if (s != t) then -(n : ℤ) else n) = (if s = t then 1 else -1) * n := by
  cases s <;> cases t <;> simp

theorem isProduct_fMul (draw i : ℕ) (a b : Word) : IsProduct a b (fMul draw i a b) := by
  refine ⟨fun h => ?_, fun hna hnb hib hia => ?_⟩
  · have hprod : fMul draw i a b = nanResult draw i .mul a b := by
      unfold fMul
      split
      · rfl
      · next hn => rw [if_pos (by grind)]
    rw [hprod]
    exact isQuietNaN_nanResult ..
  · rw [fMul, if_neg (by grind), if_neg (by grind)]
    split
    · next hinf =>
      refine ⟨signBit_mkFloat _ (by decide), fun _ => isInf_mkFloat_infPattern _, fun ha hb => ?_⟩
      simp [isInf_eq_false_of_isFinite, ha, hb] at hinf
    · next hinf =>
      refine ⟨signBit_mkFloat_roundPattern .., fun h => absurd h (by grind), fun _ _ => ?_⟩
      rw [fval_mul_fval]
      exact roundingIsNearestEven _ _ _ (by positivity)

theorem isQuotient_fDiv (draw i : ℕ) (a b : Word) : IsQuotient a b (fDiv draw i a b) := by
  refine ⟨fun h => ?_, fun hna hnb hz hi => ?_⟩
  · have hquot : fDiv draw i a b = nanResult draw i .div a b := by
      unfold fDiv
      split
      · rfl
      · next hn => rw [if_pos (by grind)]
    rw [hquot]
    exact isQuietNaN_nanResult ..
  · rw [fDiv, if_neg (by grind), if_neg (by grind)]
    split
    · next hinf =>
      have hza : IsFinite a → isZero b = true := fun ha => by simpa [isInf_eq_false_of_isFinite ha] using hinf
      exact ⟨signBit_mkFloat _ (by decide), fun _ => isInf_mkFloat_infPattern _,
        fun ha hb => absurd hb (by simp [isInf_eq_false_of_isFinite (isFinite_of_isZero (hza ha))]),
        fun ha _ hzb => absurd (hza ha) hzb⟩
    · next hinf =>
      have hinf : ¬ (isInf a = true ∨ isZero b = true) := by simpa using hinf
      split
      · next hb =>
        exact ⟨signBit_mkFloat _ (by decide), fun h => absurd h hinf, fun _ _ => isZero_mkFloat_zero _,
          fun _ hfb => absurd hb (by simp [isInf_eq_false_of_isFinite hfb])⟩
      · next hb =>
        refine ⟨signBit_mkFloat_roundPattern .., fun h => absurd h hinf, fun _ h => absurd h hb, fun _ _ hzb => ?_⟩
        have hpos : 0 < magnitude b := Nat.pos_of_ne_zero (mt (magnitude_eq_zero_iff b).1 hzb)
        have hround := roundingIsNearestEven (magnitude a * 2 ^ 149) (magnitude b) (signBit a != signBit b) hpos
        rwa [signed_quotient, Nat.cast_mul, Nat.cast_pow, Nat.cast_ofNat] at hround

/-! Square roots -/

section Halves
variable {N : ℕ} {x : ℝ} (j : ℕ) (c : ℤ)

/-- Half a multiple of 2^(j+1) is an integer, so none lies strictly between N and N + 1: what lies there is above the
same half multiples as N + 1/2. -/
theorem half_lt_of_half_le (hx : N < x) (h : (c : ℝ) / 2 ≤ (N + 1 / 2) / 2 ^ (j + 1)) :
    (c : ℝ) / 2 < x / 2 ^ (j + 1) := by
  rw [le_div_iff₀ (by positivity), pow_succ] at h
  rw [lt_div_iff₀ (by positivity), pow_succ]
  have hlt : ((c * 2 ^ j : ℤ) : ℝ) < ((N + 1 : ℤ) : ℝ) := by push_cast; linarith
  have hle : ((c * 2 ^ j : ℤ) : ℝ) ≤ ((N : ℤ) : ℝ) := Int.cast_le.2 (Int.lt_add_one_iff.1 (Int.cast_lt.1 hlt))
  push_cast at hle
  linarith

/-- The other side of `half_lt_of_half_le`. -/
theorem lt_half_of_le_half (hx : x < N + 1) (h : (N + 1 / 2) / 2 ^ (j + 1) ≤ (c : ℝ) / 2) :
    x / 2 ^ (j + 1) < (c : ℝ) / 2 := by
  rw [div_le_iff₀ (by positivity), pow_succ] at h
  rw [div_lt_iff₀ (by positivity), pow_succ]
  have hlt : ((N : ℤ) : ℝ) < ((c * 2 ^ j : ℤ) : ℝ) := by push_cast; linarith
  have hle : ((N + 1 : ℤ) : ℝ) ≤ ((c * 2 ^ j : ℤ) : ℝ) := Int.cast_le.2 (Int.cast_lt.1 hlt)
  push_cast at hle
  linarith

end Halves

/-- What N + 1/2 rounds to, any real strictly between N and N + 1 rounds to, unless the spacing is 1. -/
theorem RoundsTo.of_between {N j q : ℕ} {x : ℝ} (h : RoundsTo (N + 1 / 2) (j + 1) q) (hx : N < x)
    (hx' : x < N + 1) : RoundsTo x (j + 1) q := by
  obtain ⟨hlo, hhi⟩ := abs_le.1 h.near
  have habove := lt_half_of_le_half j (2 * q + 1) hx' (by push_cast; linarith)
  have hbelow := half_lt_of_half_le j (2 * q - 1) hx (by push_cast; linarith)
  push_cast at habove hbelow
  have hlt : |(q : ℝ) - x / 2 ^ (j + 1)| < 1 / 2 := abs_lt.2 ⟨by linarith, by linarith⟩
  refine ⟨hlt.le, fun he => absurd he hlt.ne, h.normal.imp_right fun hn => ?_, ?_⟩
  · have := half_lt_of_half_le j (2 ^ 24) hx (by push_cast; linarith)
    push_cast at this
    linarith
  · have := lt_half_of_le_half j (2 ^ 25) hx' (by push_cast; linarith [h.below])
    push_cast at this
    linarith

/-- The model's root, with its half for an inexact remainder, rounds as the real root does. -/
theorem roundPattern_isqrt {n : ℕ} (hlo : 2 ^ 50 ≤ n) (hhi : n < 2 ^ 213 * 2 ^ 213) :
    ∃ k q, RoundsTo (√n) k q ∧
      roundPattern (2 * isqrt n + if isqrt n * isqrt n = n then 0 else 1) 2 = min (k * 2 ^ 23 + q) infPattern := by
  obtain ⟨hle, hlt⟩ := isqrt_bounds hhi
  generalize isqrt n = root at hle hlt ⊢
  obtain ⟨k, q, h, hp⟩ := roundPattern_eq (2 * root + if root * root = n then 0 else 1) Nat.two_pos
  refine ⟨k, q, ?_, hp⟩
  by_cases hn : root * root = n
  · subst hn
    simpa using h
  · have hhalf : RoundsTo (root + 1 / 2) k q := by
      convert h using 1
      simp [hn]
      ring
    obtain ⟨j, rfl⟩ : ∃ j, k = j + 1 := by
      refine Nat.exists_eq_add_one_of_ne_zero fun hk => ?_
      subst hk
      have hb : (root : ℝ) < ((2 ^ 24 : ℕ) : ℝ) := by
        have := h.below
        push_cast
        linarith [hhalf.below]
      have hroot : root + 1 ≤ 2 ^ 24 := Nat.cast_lt.1 hb
      have := Nat.mul_le_mul hroot hroot
      omega
    refine hhalf.of_between ?_ ?_
    · rw [Real.lt_sqrt (by positivity)]
      exact_mod_cast (by rw [pow_two]; omega : root ^ 2 < n)
    · rw [Real.sqrt_lt' (by positivity)]
      exact_mod_cast (by rwa [pow_two] : n < (root + 1) ^ 2)

theorem fSqrt_of_positive (draw i : ℕ) {a : Word} (ha : IsFinite a) (hs : ¬ signBit a = true) (hz : ¬ isZero a = true) :
    fSqrt draw i a = mkFloat false (roundPattern (2 * isqrt (magnitude a * 2 ^ 149) +
      if isqrt (magnitude a * 2 ^ 149) * isqrt (magnitude a * 2 ^ 149) = magnitude a * 2 ^ 149 then 0 else 1) 2) := by
  rw [fSqrt, if_neg (by rw [isNaN_eq_false_of_isFinite ha]; decide), if_neg hz, if_neg hs,
    if_neg (by rw [isInf_eq_false_of_isFinite ha]; decide)]

theorem sqrt_lt_overflowMidpoint {n : ℕ} (h : n < 2 ^ 213 * 2 ^ 213) : √(n : ℝ) < overflowMidpoint := by
  rw [Real.sqrt_lt' overflowMidpoint_pos]
  calc (n : ℝ) < 2 ^ 213 * 2 ^ 213 := by exact_mod_cast h
    _ ≤ overflowMidpoint * overflowMidpoint := by gcongr <;> norm_num [overflowMidpoint]
    _ = overflowMidpoint ^ 2 := (pow_two _).symm

theorem isSquareRoot_fSqrt (draw i : ℕ) (a : Word) : IsSquareRoot a (fSqrt draw i a) := by
  refine ⟨fun h => ?_, fun hz => ?_, fun hi hs => ?_, fun ha hs hz => ?_⟩
  · have hroot : fSqrt draw i a = nanResult draw i .sqrt a 0 := by
      unfold fSqrt
      split
      · rfl
      · next hn =>
        obtain ⟨hs, hz⟩ := h.resolve_left hn
        rw [if_neg hz, if_pos hs]
    rw [hroot]
    exact isQuietNaN_nanResult ..
  · simp [fSqrt, isNaN_eq_false_of_isFinite (isFinite_of_isZero hz), hz]
  · have hz : ¬ isZero a = true := fun hz => by simp [isInf_eq_false_of_isFinite (isFinite_of_isZero hz)] at hi
    simp [fSqrt, isNaN_eq_false_of_isInf hi, hi, hs, hz]
  · have hpos : 0 < magnitude a := Nat.pos_of_ne_zero (mt (magnitude_eq_zero_iff a).1 hz)
    have hmag := magnitude_lt_of_isFinite ha
    have hn : magnitude a * 2 ^ 149 < 2 ^ 213 * 2 ^ 213 := by omega
    obtain ⟨k, q, h, hp⟩ := roundPattern_isqrt (n := magnitude a * 2 ^ 149) (by omega) hn
    have hround := h.mkFloat_min false
    rw [if_neg (sqrt_lt_overflowMidpoint hn).not_ge, ← hp, ← fSqrt_of_positive draw i ha hs hz] at hround
    obtain ⟨hfin, hnear⟩ := hround
    rw [Nat.cast_mul, Nat.cast_pow, Nat.cast_ofNat] at hnear
    refine ⟨hfin, ?_, hnear⟩
    rw [fSqrt_of_positive draw i ha hs hz]
    exact signBit_mkFloat_roundPattern ..

/-! Minima and maxima -/

theorem isMinLane_fMin (a b : Word) : IsMinLane a b (fMin a b) := by
  refine ⟨fun h => ?_, fun ha hb => ⟨fun h => ?_, fun h => ?_, fun h => ?_⟩⟩
  · exact if_pos (by simpa using h)
  · simp [fMin, fLt, ha, hb, h]
  · simp [fMin, fLt, ha, hb, h, h.not_gt]
  · simp [fMin, fLt, ha, hb, h]

theorem isMaxLane_fMax (a b : Word) : IsMaxLane a b (fMax a b) := by
  refine ⟨fun h => ?_, fun ha hb => ⟨fun h => ?_, fun h => ?_, fun h => ?_⟩⟩
  · exact if_pos (by simpa using h)
  · simp [fMax, fLt, ha, hb, h]
  · simp [fMax, fLt, ha, hb, h, h.not_gt]
  · simp [fMax, fLt, ha, hb, h]

theorem fMinNum_of_isNaN_iff {a b : Word} (h : isNaN a = true ↔ isNaN b = true) : fMinNum a b = fMin a b := by
  simp [fMinNum, Bool.eq_iff_iff.2 h]

theorem fMaxNum_of_isNaN_iff {a b : Word} (h : isNaN a = true ↔ isNaN b = true) : fMaxNum a b = fMax a b := by
  simp [fMaxNum, Bool.eq_iff_iff.2 h]

/-! Quiet results (R103) -/

theorem isNaN_eq_false_of_nearestEven {num : ℤ} {den : ℕ} {r : Word} (h : NearestEven num den r) : isNaN r = false := by
  unfold NearestEven at h
  split at h
  · exact isNaN_eq_false_of_isInf h.1
  · exact isNaN_eq_false_of_isFinite h.1

section Quiet
variable {a b r : Word} (hr : isNaN r = true)
include hr

theorem IsSum.isQuietNaN (h : IsSum a b r) : IsQuietNaN r := by
  obtain ⟨hnan, hinfA, hinfB, hzero, hfin⟩ := h
  refine hnan (by_contra fun hn => ?_)
  simp only [not_or, not_and] at hn
  obtain ⟨hna, hnb, hs⟩ := hn
  by_cases ha : isInf a = true
  · rw [hinfA ha hnb fun hb => not_not.1 (hs ha hb)] at hr
    exact hna hr
  have hfa := isFinite_of_not_isNaN_of_not_isInf hna ha
  by_cases hb : isInf b = true
  · rw [hinfB hb hfa] at hr
    exact hnb hr
  have hfb := isFinite_of_not_isNaN_of_not_isInf hnb hb
  by_cases h0 : fval a + fval b = 0
  · rw [hzero hfa hfb h0] at hr
    split at hr <;> exact absurd hr (by decide)
  · simp [isNaN_eq_false_of_nearestEven (hfin hfa hfb h0)] at hr

theorem IsProduct.isQuietNaN (h : IsProduct a b r) : IsQuietNaN r := by
  obtain ⟨hnan, hother⟩ := h
  refine hnan (by_contra fun hn => ?_)
  simp only [not_or] at hn
  obtain ⟨hna, hnb, hab, hba⟩ := hn
  obtain ⟨_, hinf, hfin⟩ := hother hna hnb hab hba
  by_cases hi : isInf a = true ∨ isInf b = true
  · simp [isNaN_eq_false_of_isInf (hinf hi)] at hr
  · have hfa := isFinite_of_not_isNaN_of_not_isInf hna (not_or.1 hi).1
    have hfb := isFinite_of_not_isNaN_of_not_isInf hnb (not_or.1 hi).2
    simp [isNaN_eq_false_of_nearestEven (hfin hfa hfb)] at hr

theorem IsQuotient.isQuietNaN (h : IsQuotient a b r) : IsQuietNaN r := by
  obtain ⟨hnan, hother⟩ := h
  refine hnan (by_contra fun hn => ?_)
  simp only [not_or] at hn
  obtain ⟨hna, hnb, hzero, hinfs⟩ := hn
  obtain ⟨_, hinf, hzero, hfin⟩ := hother hna hnb hzero hinfs
  by_cases hi : isInf a = true ∨ isZero b = true
  · simp [isNaN_eq_false_of_isInf (hinf hi)] at hr
  have hfa := isFinite_of_not_isNaN_of_not_isInf hna (not_or.1 hi).1
  by_cases hb : isInf b = true
  · simp [isNaN_eq_false_of_isFinite (isFinite_of_isZero (hzero hfa hb))] at hr
  · have hfb := isFinite_of_not_isNaN_of_not_isInf hnb hb
    simp [isNaN_eq_false_of_nearestEven (hfin hfa hfb (not_or.1 hi).2)] at hr

theorem IsSquareRoot.isQuietNaN (h : IsSquareRoot a r) : IsQuietNaN r := by
  obtain ⟨hnan, hzero, hinf, hfin⟩ := h
  refine hnan (by_contra fun hn => ?_)
  simp only [not_or, not_and, not_not] at hn
  obtain ⟨hna, hneg⟩ := hn
  by_cases hz : isZero a = true
  · rw [hzero hz] at hr
    exact hna hr
  have hs : ¬ signBit a = true := mt hneg hz
  by_cases hi : isInf a = true
  · rw [hinf hi hs] at hr
    exact hna hr
  · have hfa := isFinite_of_not_isNaN_of_not_isInf hna hi
    simp [isNaN_eq_false_of_isFinite (hfin hfa hs hz).1] at hr

end Quiet

end Sys2Proof.Machine

/-! Proofs. The arithmetic operations (spec/41_arithmetic.md R100 to R124): what each answers lane by lane, from its rule
on accepted operands and the lane operations. -/

namespace Sys2Proof.Machine

/-! The rules on accepted operands -/

section Rules
variable {i : Instr} {s : State} {accepts : Tag → Bool} {a b : Vec}

/-- A rule on A alone, once A is accepted. -/
theorem exec_of_unary {f : Vec → Vec} (hexec : exec i s = s.answer (s.req.unary accepts >>= fun a => .ok (.vec (f a))))
    (ha : s.req.a = a.port) (ht : accepts a.tag = true) (hc : category a.tag ≠ .bool) :
    exec i s = s.answer (.ok (.vec (f a))) := by
  rw [hexec, unary_ok ha ht (canonical_of_not_bool hc)]
  rfl

/-- A rule on A and B, once both are accepted. -/
theorem exec_of_binary {f : Vec → Vec → Vec}
    (hexec : exec i s = s.answer (s.req.binary accepts >>= fun p => .ok (.vec (f p.1 p.2))))
    (ha : s.req.a = a.port) (hb : s.req.b = b.port) (hab : b.tag = a.tag) (ht : accepts a.tag = true)
    (hc : category a.tag ≠ .bool) : exec i s = s.answer (.ok (.vec (f a b))) := by
  rw [hexec, binary_ok ha ht hb hab (canonical_of_not_bool hc) (canonical_of_not_bool (hab ▸ hc))]
  rfl

/-- A Float32x4 operation on A. -/
theorem answersFloats_of_mapFloat {f : Nat → Word → Word} {P : Nat → Word → Prop}
    (hexec : exec i s = s.answer (s.req.unary floatTag >>= fun a => .ok (.vec (mapFloat f a)))) (ha : s.req.a = a.port)
    (ht : a.tag = .float32x4) (hP : ∀ k, P k (f k (lane 32 a.bits k))) : AnswersFloats i s P :=
  answersFloats_of_lanes (exec_of_unary hexec ha (by rw [ht]; rfl) (by rw [ht]; decide)) fun k _ => hP k

/-- A Float32x4 operation on A and B. -/
theorem answersFloats_of_zipFloat {f : Nat → Word → Word → Word} {P : Nat → Word → Prop}
    (hexec : exec i s = s.answer (s.req.binary floatTag >>= fun p => .ok (.vec (zipFloat f p.1 p.2))))
    (ha : s.req.a = a.port) (hb : s.req.b = b.port) (hta : a.tag = .float32x4) (htb : b.tag = .float32x4)
    (hP : ∀ k, P k (f k (lane 32 a.bits k) (lane 32 b.bits k))) : AnswersFloats i s P :=
  answersFloats_of_lanes
    (exec_of_binary (f := zipFloat f) hexec ha hb (htb.trans hta.symm) (by rw [hta]; rfl) (by rw [hta]; decide))
    fun k _ => hP k

section Numeric
variable {f : Nat → Word → Word → Word} {g : Int → Int → Int}
  (hexec : exec i s = s.answer (s.req.binary numericTag >>= fun p => .ok (.vec (zipNumeric f g p.1 p.2))))
  (ha : s.req.a = a.port) (hb : s.req.b = b.port) (hab : b.tag = a.tag)
include hexec ha hb hab

/-- A numeric operation on float lanes. -/
theorem answersFloats_of_zipNumeric {P : Nat → Word → Prop} (ht : a.tag = .float32x4)
    (hP : ∀ k, P k (f k (lane 32 a.bits k) (lane 32 b.bits k))) : AnswersFloats i s P := by
  have h := exec_of_binary (f := zipNumeric f g) hexec ha hb hab (by rw [ht]; rfl) (by rw [ht]; decide)
  have hzip : zipNumeric f g a b = zipFloat f a b := by simp [zipNumeric, ht, category]
  rw [hzip] at h
  exact answersFloats_of_lanes h fun k _ => hP k

/-- A numeric operation on integer lanes: the low bits of the exact result (R101). -/
theorem answersVec_of_zipNumeric (hc : category a.tag = .int) :
    AnswersVec i s a.tag fun k r =>
      r = BitVec.ofInt (laneWidth a.tag) (g (a.lane k).toInt (lane (laneWidth a.tag) b.bits k).toInt) := by
  have h := exec_of_binary (f := zipNumeric f g) hexec ha hb hab (by simp [numericTag, hc]) (by simp [hc])
  have hzip : zipNumeric f g a b = zipInt g a b := by simp [zipNumeric, hc]
  rw [hzip] at h
  exact answersVec_of_lanes h fun _ _ => rfl

end Numeric

/-! Saturation (R102) -/

theorem saturate_eq_clamp (w : Nat) (x : Int) : saturate w x = max (-2 ^ (w - 1)) (min (2 ^ (w - 1) - 1) x) := by
  have : (0 : Int) < 2 ^ (w - 1) := by positivity
  unfold saturate
  split
  · omega
  · split <;> omega

theorem toInt_ofInt_saturate {w : Nat} (hw : 0 < w) (x : Int) :
    (BitVec.ofInt w (saturate w x)).toInt = max (-2 ^ (w - 1)) (min (2 ^ (w - 1) - 1) x) := by
  have : (0 : Int) < 2 ^ (w - 1) := by positivity
  rw [saturate_eq_clamp, BitVec.toInt_ofInt_eq_self hw (by omega) (by omega)]

/-- A saturating operation on A and B: the exact result clamped to the lane's range. -/
theorem answersVec_of_saturating {g : Int → Int → Int}
    (hexec : exec i s = s.answer (s.req.binary saturatingTag >>= fun p =>
      .ok (.vec (zipInt (fun x y => saturate (laneWidth p.1.tag) (g x y)) p.1 p.2))))
    (ha : s.req.a = a.port) (hb : s.req.b = b.port) (ht : a.tag ∈ [Tag.int16x8, Tag.int8x16]) (hab : b.tag = a.tag) :
    AnswersVec i s a.tag fun k r =>
      r.toInt = max (-2 ^ (laneWidth a.tag - 1))
        (min (2 ^ (laneWidth a.tag - 1) - 1) (g (a.lane k).toInt (lane (laneWidth a.tag) b.bits k).toInt)) := by
  have hsat := (saturatingTag_iff a.tag).2 ht
  have h := exec_of_binary (f := fun a b => zipInt (fun x y => saturate (laneWidth a.tag) (g x y)) a b) hexec ha hb hab
    hsat (category_of_saturatingTag hsat)
  exact answersVec_of_lanes h fun _ _ => toInt_ofInt_saturate (laneWidth_pos _) _

end Rules

/-! The obligations on results -/

/-- Settles O11: each category of A has its rule, and R54's table has the other requests. -/
theorem negNegatesLanes : Obligations.NegNegatesLanes := by
  refine ⟨encodedAs_of_encode_eq rfl rfl, fun s a ha => ⟨fun ht => ?_, fun hc => ?_⟩, unacceptedOperandsAreIllegal _⟩
  · have h := exec_of_unary (i := .neg) rfl ha (by rw [ht]; rfl) (by rw [ht]; decide)
    rw [if_pos (by rw [ht]; rfl)] at h
    exact answersFloats_of_lanes h fun _ _ => rfl
  · have h := exec_of_unary (i := .neg) rfl ha (by simp [numericTag, hc]) (by simp [hc])
    rw [if_neg (by simp [floatTag, hc])] at h
    exact answersVec_of_lanes h fun _ _ => rfl

/-- Settles O12: the lane operations are IEEE-754 sums, of A and B or of A and B negated, or the low bits
of the exact integers. -/
theorem addAndSubLanes : Obligations.AddAndSubLanes := by
  refine ⟨encodedAs_of_encode_eq rfl rfl, encodedAs_of_encode_eq rfl rfl, fun s a b ha hb hab =>
    ⟨fun ht => ⟨?_, ?_⟩, fun hc => ⟨?_, ?_⟩⟩, unacceptedOperandsAreIllegal _, unacceptedOperandsAreIllegal _⟩
  · exact answersFloats_of_zipNumeric rfl ha hb hab ht fun _ => isSum_fAdd ..
  · exact answersFloats_of_zipNumeric rfl ha hb hab ht fun _ => isSum_fSub ..
  · exact answersVec_of_zipNumeric rfl ha hb hab hc
  · exact answersVec_of_zipNumeric rfl ha hb hab hc

/-- Settles O13: the lane operation is the IEEE-754 product, or the exact product's low bits. -/
theorem mulLanes : Obligations.MulLanes := by
  refine ⟨encodedAs_of_encode_eq rfl rfl, fun s a b ha hb hab => ⟨fun ht => ?_, fun hc => ?_⟩,
    unacceptedOperandsAreIllegal _⟩
  · exact answersFloats_of_zipNumeric rfl ha hb hab ht fun _ => isProduct_fMul ..
  · exact answersVec_of_zipNumeric rfl ha hb hab hc

/-- Settles O14: the lane operation is the IEEE-754 quotient. -/
theorem divLanes : Obligations.DivLanes :=
  ⟨encodedAs_of_encode_eq rfl rfl, fun _ _ _ ha hb hta htb =>
    answersFloats_of_zipFloat rfl ha hb hta htb fun _ => isQuotient_fDiv .., unacceptedOperandsAreIllegal _⟩

/-- Settles O15: the lane operation is the IEEE-754 square root. -/
theorem sqrtLanes : Obligations.SqrtLanes :=
  ⟨encodedAs_of_encode_eq rfl rfl, fun _ _ ha ht => answersFloats_of_mapFloat rfl ha ht fun _ => isSquareRoot_fSqrt ..,
    unacceptedOperandsAreIllegal _⟩

/-- Settles O16: the lane operation is the mask itself. -/
theorem absClearsSign : Obligations.AbsClearsSign :=
  ⟨encodedAs_of_encode_eq rfl rfl, fun _ _ ha ht => answersFloats_of_mapFloat rfl ha ht fun _ => rfl,
    unacceptedOperandsAreIllegal _⟩

/-- Settles O17: the lane operation is the opaque function itself. -/
theorem approximationsAreOpenFunctions : Obligations.ApproximationsAreOpenFunctions :=
  ⟨encodedAs_of_encode_eq rfl rfl, encodedAs_of_encode_eq rfl rfl, fun _ _ ha ht =>
    ⟨answersFloats_of_mapFloat rfl ha ht fun _ => rfl, answersFloats_of_mapFloat rfl ha ht fun _ => rfl⟩,
    unacceptedOperandsAreIllegal _, unacceptedOperandsAreIllegal _⟩

/-- Settles O18: the lane operations are the rules of R119 and R120. -/
theorem minAndMaxLanes : Obligations.MinAndMaxLanes :=
  ⟨encodedAs_of_encode_eq rfl rfl, encodedAs_of_encode_eq rfl rfl, fun _ _ _ ha hb hta htb =>
    ⟨answersFloats_of_zipFloat rfl ha hb hta htb fun _ => isMinLane_fMin ..,
      answersFloats_of_zipFloat rfl ha hb hta htb fun _ => isMaxLane_fMax ..⟩,
    unacceptedOperandsAreIllegal _, unacceptedOperandsAreIllegal _⟩

/-- Settles O19: with one NaN the other operand is returned, and otherwise the lane operation is MIN's or MAX's. -/
theorem minNumAndMaxNumLanes : Obligations.MinNumAndMaxNumLanes := by
  refine ⟨encodedAs_of_encode_eq rfl rfl, encodedAs_of_encode_eq rfl rfl, fun s a b ha hb hta htb => ⟨?_, ?_⟩,
    unacceptedOperandsAreIllegal _, unacceptedOperandsAreIllegal _⟩
  · refine answersFloats_of_zipFloat rfl ha hb hta htb fun k => ⟨fun h h' => ?_, fun h h' => ?_, fun h => ?_⟩
    · simp [fMinNum, h, h']
    · simp [fMinNum, h, h']
    · rw [fMinNum_of_isNaN_iff h]
      exact isMinLane_fMin ..
  · refine answersFloats_of_zipFloat rfl ha hb hta htb fun k => ⟨fun h h' => ?_, fun h h' => ?_, fun h => ?_⟩
    · simp [fMaxNum, h, h']
    · simp [fMaxNum, h, h']
    · rw [fMaxNum_of_isNaN_iff h]
      exact isMaxLane_fMax ..

/-- Settles O20: the lane is the clamped result, which fits its width, so no bit is lost. -/
theorem saturatingLanesClamp : Obligations.SaturatingLanesClamp :=
  ⟨encodedAs_of_encode_eq rfl rfl, encodedAs_of_encode_eq rfl rfl, fun _ _ _ ha hb ht hab =>
    ⟨answersVec_of_saturating rfl ha hb ht hab, answersVec_of_saturating rfl ha hb ht hab⟩,
    unacceptedOperandsAreIllegal _, unacceptedOperandsAreIllegal _⟩

/-! Quiet NaNs (R103) -/

section QuietResponses
variable {i : Instr} {s t : State} {r : Response}

/-- A completed instruction has the one response it answers. -/
theorem rsp_of_answers (h : Answers i s r) (hexec : exec i s = .next t) : t.rsp = r := by
  obtain ⟨d, hd⟩ := h
  cases hd.symm.trans hexec
  rfl

/-- The instruction completes with quiet NaN lanes, or with no float vector. -/
def AnswersQuietly (i : Instr) (s : State) : Prop :=
  AnswersFloats i s (fun _ r => isNaN r = true → IsQuietNaN r) ∨
  (∃ t P, t ≠ .float32x4 ∧ AnswersVec i s t P) ∨
  ∃ status info, AnswersError i s status info

theorem AnswersQuietly.isQuietNaN (h : AnswersQuietly i s) (hexec : exec i s = .next t) {v : Vec}
    (hv : t.rsp.rv = v.port) (ht : v.tag = .float32x4) {k : Nat} (hk : k < 4) (hn : isNaN (lane 32 v.bits k) = true) :
    IsQuietNaN (lane 32 v.bits k) := by
  rcases h with ⟨bits, ha, hq⟩ | ⟨u, P, hu, bits, ha, _⟩ | ⟨status, info, ha⟩
  · rw [rsp_of_answers ha hexec] at hv
    obtain rfl : bits = v.bits := congrArg Port.bits hv
    exact hq k hk hn
  · rw [rsp_of_answers ha hexec] at hv
    obtain rfl : u = v.tag := Option.some.inj (congrArg Port.tag hv)
    exact absurd ht hu
  · rw [rsp_of_answers ha hexec] at hv
    exact absurd hv.symm (port_ne_none v)

/-- Operands an instruction does not accept get an error, so only accepted ones are left to look at. -/
theorem answersQuietly_of_accepted (h : ∀ vs, Accepted i s.req vs → AnswersQuietly i s) : AnswersQuietly i s := by
  by_cases hvs : ∃ vs, Accepted i s.req vs
  · obtain ⟨vs, hvs⟩ := hvs
    exact h vs hvs
  · exact .inr (.inr ⟨_, _, unacceptedOperandsAreIllegal i s (not_exists.1 hvs)⟩)

variable {vs : List Vec}

theorem answersQuietly_of_zipNumeric {f : Nat → Word → Word → Word} {g : Int → Int → Int}
    (hexec : exec i s = s.answer (s.req.binary numericTag >>= fun p => .ok (.vec (zipNumeric f g p.1 p.2))))
    (hf : ∀ k x y, isNaN (f k x y) = true → IsQuietNaN (f k x y))
    (hvs : OnPair [.float32x4, .int32x4, .int16x8, .int8x16] s.req vs) : AnswersQuietly i s := by
  obtain ⟨a, b, ha, hat, hb, hab, _⟩ := hvs
  by_cases hfloat : a.tag = .float32x4
  · exact .inl (answersFloats_of_zipNumeric hexec ha hb hab hfloat fun k => hf k _ _)
  · have hint : category a.tag = .int := by
      have hnum := (numericTag_iff a.tag).2 hat
      revert hnum hfloat
      cases a.tag <;> decide
    exact .inr (.inl ⟨_, _, hfloat, answersVec_of_zipNumeric hexec ha hb hab hint⟩)

theorem answersQuietly_of_zipFloat {f : Nat → Word → Word → Word}
    (hexec : exec i s = s.answer (s.req.binary floatTag >>= fun p => .ok (.vec (zipFloat f p.1 p.2))))
    (hf : ∀ k x y, isNaN (f k x y) = true → IsQuietNaN (f k x y)) (hvs : OnPair [.float32x4] s.req vs) :
    AnswersQuietly i s := by
  obtain ⟨a, b, ha, hat, hb, hab, _⟩ := hvs
  have hat := List.mem_singleton.1 hat
  exact .inl (answersFloats_of_zipFloat hexec ha hb hat (hab.trans hat) fun k => hf k _ _)

theorem answersQuietly_of_mapFloat {f : Nat → Word → Word}
    (hexec : exec i s = s.answer (s.req.unary floatTag >>= fun a => .ok (.vec (mapFloat f a))))
    (hf : ∀ k x, isNaN (f k x) = true → IsQuietNaN (f k x)) (hvs : OnA [.float32x4] s.req vs) : AnswersQuietly i s := by
  obtain ⟨a, ha, hat, _⟩ := hvs
  exact .inl (answersFloats_of_mapFloat hexec ha (List.mem_singleton.1 hat) fun k => hf k _)

theorem floatArithmetic_answersQuietly (hi : i ∈ [Instr.add, .sub, .mul, .div, .sqrt]) (s : State) :
    AnswersQuietly i s := by
  refine answersQuietly_of_accepted fun vs hvs => ?_
  simp only [List.mem_cons, List.not_mem_nil, or_false] at hi
  rcases hi with rfl | rfl | rfl | rfl | rfl
  · exact answersQuietly_of_zipNumeric rfl (fun _ _ _ hr => (isSum_fAdd ..).isQuietNaN hr) hvs
  · exact answersQuietly_of_zipNumeric rfl (fun _ _ _ hr => (isSum_fSub ..).isQuietNaN hr) hvs
  · exact answersQuietly_of_zipNumeric rfl (fun _ _ _ hr => (isProduct_fMul ..).isQuietNaN hr) hvs
  · exact answersQuietly_of_zipFloat rfl (fun _ _ _ hr => (isQuotient_fDiv ..).isQuietNaN hr) hvs
  · exact answersQuietly_of_mapFloat rfl (fun _ _ hr => (isSquareRoot_fSqrt ..).isQuietNaN hr) hvs

end QuietResponses

/-- Settles O22: the five operations answer quietly, each by its IEEE-754 relation. -/
theorem floatArithmeticNaNsAreQuiet : Obligations.FloatArithmeticNaNsAreQuiet :=
  fun _ s _ _ hi hexec hv ht _ hk hn => (floatArithmetic_answersQuietly hi s).isQuietNaN hexec hv ht hk hn

end Sys2Proof.Machine

/-! Proofs. Comparators and logical operations (spec/42_relational_logical.md R125 to R139): what each answers on canonical
operands, by its row of R126's table or by the bits. -/

namespace Sys2Proof.Machine

/-! The rules on canonical operands -/

section CanonicalOperands
variable {i : Instr} {s : State} {accepts : Tag → Bool} {a b : Vec}

/-- A rule on A alone, of any tag it accepts, once A is canonical. -/
theorem answers_of_unary {f : Vec → Vec} (hexec : exec i s = s.answer (s.req.unary accepts >>= fun a => .ok (.vec (f a))))
    (ha : s.req.a = a.port) (ht : accepts a.tag = true) (hca : a.Canonical) : Answers i s (respondVec (f a)) := by
  rw [unary_ok ha ht hca] at hexec
  exact answers_of_reply hexec rfl (by simp [respondVec])

/-- A rule on A and B, of any tag it accepts, once both are canonical. -/
theorem answers_of_binary {f : Vec → Vec → Vec}
    (hexec : exec i s = s.answer (s.req.binary accepts >>= fun p => .ok (.vec (f p.1 p.2))))
    (ha : s.req.a = a.port) (hb : s.req.b = b.port) (hab : b.tag = a.tag) (ht : accepts a.tag = true)
    (hca : a.Canonical) (hcb : b.Canonical) : Answers i s (respondVec (f a b)) := by
  rw [binary_ok ha ht hb hab hca hcb] at hexec
  exact answers_of_reply hexec rfl (by simp [respondVec])

end CanonicalOperands

/-! The bool lane of a comparison (R24, R125) -/

theorem boolLane_of_iff {w : Nat} {p : Bool} {P : Prop} (h : p = true ↔ P) :
    (P → boolLane w p = BitVec.allOnes w) ∧ (¬ P → boolLane w p = 0) :=
  ⟨fun hP => if_pos (h.2 hP), fun hP => if_neg (mt h.1 hP)⟩

theorem boolLane_not (w : Nat) (p : Bool) : boolLane w (!p) = ~~~boolLane w p := by
  cases p <;> simp [boolLane]

section Comparators
variable {i : Instr} {s : State} {accepts : Tag → Bool} {a b : Vec} {c : Comparison}

/-- A comparator on canonical operands gives on every lane the bool lane of its comparison (R125). -/
theorem answersVec_of_compareReply {P : Nat → BitVec (laneWidth (boolTag a.tag)) → Prop}
    (hexec : exec i s = s.answer (compareReply s.req accepts c)) (ha : s.req.a = a.port) (hb : s.req.b = b.port)
    (hab : b.tag = a.tag) (ht : accepts a.tag = true) (hca : a.Canonical) (hcb : b.Canonical)
    (hP : ∀ k, P k (boolLane (laneWidth (boolTag a.tag)) (compareLane c a b k))) :
    AnswersVec i s (boolTag a.tag) P := by
  refine ⟨_, answers_of_binary (f := compareVec c) hexec ha hb hab ht hca hcb, fun k hk => ?_⟩
  rw [compareVec, lane_mkBoolVec _ _ (by simpa using hk)]
  exact hP k

/-! The columns of R126's table -/

theorem compareLane_of_float (h : category a.tag = .float) (k : Nat) :
    compareLane c a b k = c.onFloat (lane 32 a.bits k) (lane 32 b.bits k) := by
  simp only [compareLane, h]

theorem compareLane_of_int (h : category a.tag = .int) (k : Nat) :
    compareLane c a b k = c.onInt (a.lane k).toInt (lane (laneWidth a.tag) b.bits k).toInt := by
  simp only [compareLane, h, Vec.lane]

theorem compareLane_of_bool (h : category a.tag = .bool) (k : Nat) :
    compareLane c a b k = c.onBool (a.lane k == lane (laneWidth a.tag) b.bits k) := by
  simp only [compareLane, h, Vec.lane]

/-- A row of R126's table whose numeric columns are the relation R: on signed integers as it stands, on floats quietly, so
false where either operand is NaN. -/
structure Comparison.IsRelation (c : Comparison) (R : Int → Int → Prop) : Prop where
  onFloat_iff : ∀ x y, c.onFloat x y = true ↔ ¬ isNaN x ∧ ¬ isNaN y ∧ R (fval x) (fval y)
  onInt_iff : ∀ x y, c.onInt x y = true ↔ R x y

theorem isRelation_isEq : isEq.IsRelation (· = ·) :=
  ⟨fun _ _ => by simp [isEq, fEq, and_assoc], fun _ _ => by simp [isEq]⟩

theorem isRelation_isLt : isLt.IsRelation (· < ·) :=
  ⟨fun _ _ => by simp [isLt, fLt, and_assoc], fun _ _ => by simp [isLt]⟩

theorem isRelation_isLe : isLe.IsRelation (· ≤ ·) :=
  ⟨fun _ _ => by simp [isLe, fLe, and_assoc], fun _ _ => by simp [isLe]⟩

theorem isRelation_isGt : isGt.IsRelation (· > ·) :=
  ⟨fun _ _ => by simp [isGt, fLt, and_assoc, and_left_comm], fun _ _ => by simp [isGt]⟩

theorem isRelation_isGe : isGe.IsRelation (· ≥ ·) :=
  ⟨fun _ _ => by simp [isGe, fLe, and_assoc, and_left_comm], fun _ _ => by simp [isGe]⟩

/-! Equality (R130, R131) -/

/-- EQ's row of R126's table on lane k. -/
def LanesEqual (a b : Vec) (k : Nat) : Prop :=
  match category a.tag with
  | .float => ¬ isNaN (lane 32 a.bits k) ∧ ¬ isNaN (lane 32 b.bits k) ∧ fval (lane 32 a.bits k) = fval (lane 32 b.bits k)
  | .int => (a.lane k).toInt = (lane (laneWidth a.tag) b.bits k).toInt
  | .bool => a.lane k = lane (laneWidth a.tag) b.bits k

theorem compareLane_isEq_iff (a b : Vec) (k : Nat) : compareLane isEq a b k = true ↔ LanesEqual a b k := by
  unfold LanesEqual
  split
  · next h => rw [compareLane_of_float h, isRelation_isEq.onFloat_iff]
  · next h => rw [compareLane_of_int h, isRelation_isEq.onInt_iff]
  · next h => rw [compareLane_of_bool h]; exact beq_iff_eq

theorem compareLane_isNe (a b : Vec) (k : Nat) : compareLane isNe a b k = !compareLane isEq a b k := by
  cases h : category a.tag
  · rw [compareLane_of_float h, compareLane_of_float h]; rfl
  · rw [compareLane_of_int h, compareLane_of_int h]; rfl
  · rw [compareLane_of_bool h, compareLane_of_bool h]; rfl

theorem compareLane_isNe_iff (a b : Vec) (k : Nat) : compareLane isNe a b k = true ↔ ¬ LanesEqual a b k := by
  rw [compareLane_isNe, ← compareLane_isEq_iff]
  simp

theorem compareVec_isNe_bits (a b : Vec) : (compareVec isNe a b).bits = ~~~(compareVec isEq a b).bits := by
  refine bits_eq_of_lanes (laneWidth_mul_laneCount (boolTag a.tag)) fun k hk => ?_
  have hk' : k < laneCount a.tag := by simpa using hk
  rw [lane_not _ _ (lane_end_le _ hk), compareVec, compareVec, lane_mkBoolVec _ _ hk', lane_mkBoolVec _ _ hk',
    compareLane_isNe, boolLane_not]

/-! Ordering (R132 to R135) -/

/-- The relation R on lane k of numeric operands: quiet on floats, signed on integers. -/
def LanesRelated (R : Int → Int → Prop) (a b : Vec) (k : Nat) : Prop :=
  if a.tag = .float32x4 then
    ¬ isNaN (lane 32 a.bits k) ∧ ¬ isNaN (lane 32 b.bits k) ∧ R (fval (lane 32 a.bits k)) (fval (lane 32 b.bits k))
  else R (a.lane k).toInt (lane (laneWidth a.tag) b.bits k).toInt

variable {R : Int → Int → Prop} (hR : c.IsRelation R)
include hR

theorem compareLane_iff_of_isRelation (hnum : category a.tag ≠ .bool) (k : Nat) :
    compareLane c a b k = true ↔ LanesRelated R a b k := by
  unfold LanesRelated
  cases h : category a.tag
  · rw [compareLane_of_float h, hR.onFloat_iff, if_pos ((category_float_iff _).1 h)]
  · rw [compareLane_of_int h, hR.onInt_iff, if_neg (mt (category_float_iff _).2 (by simp [h]))]
  · exact absurd h hnum

/-- An ordering comparator on numeric operands, by the relation of its row. -/
theorem answersVec_of_isRelation (hexec : exec i s = s.answer (compareReply s.req numericTag c))
    (ha : s.req.a = a.port) (hb : s.req.b = b.port) (hab : b.tag = a.tag) (hnum : category a.tag ≠ .bool) :
    AnswersVec i s (boolTag a.tag) fun k r =>
      (LanesRelated R a b k → r = BitVec.allOnes (laneWidth (boolTag a.tag))) ∧ (¬ LanesRelated R a b k → r = 0) :=
  answersVec_of_compareReply hexec ha hb hab (by simpa [numericTag] using hnum) (canonical_of_not_bool hnum)
    (canonical_of_not_bool (hab ▸ hnum)) fun k => boolLane_of_iff (compareLane_iff_of_isRelation hR hnum k)

end Comparators

/-! Logical operations (R127) -/

/-- The logical operations accept every tag but Float32x4. -/
theorem logicalTag_of_ne_float {t : Tag} (h : t ≠ .float32x4) : logicalTag t = true := by
  simpa [logicalTag, category_float_iff] using h

/-! The obligations -/

/-- Settles O23: EQ's lane is true where R126's row holds, and NE's where it does not. -/
theorem equalityComparators : Obligations.EqualityComparators := by
  refine ⟨encodedAs_of_encode_eq rfl rfl, encodedAs_of_encode_eq rfl rfl, fun s a b ha hb hab hca hcb => ⟨?_, ?_⟩,
    unacceptedOperandsAreIllegal _, unacceptedOperandsAreIllegal _⟩
  · exact answersVec_of_compareReply (i := .eq) rfl ha hb hab rfl hca hcb fun k =>
      boolLane_of_iff (compareLane_isEq_iff a b k)
  · exact answersVec_of_compareReply (i := .ne) rfl ha hb hab rfl hca hcb fun k =>
      (boolLane_of_iff (compareLane_isNe_iff a b k)).imp_right fun h heq => h (not_not_intro heq)

/-- Settles O24: each ordering comparator is its relation of R126's table, quiet on floats and signed on integers. -/
theorem orderingComparators : Obligations.OrderingComparators :=
  ⟨encodedAs_of_encode_eq rfl rfl, encodedAs_of_encode_eq rfl rfl, encodedAs_of_encode_eq rfl rfl,
    encodedAs_of_encode_eq rfl rfl, fun _ _ _ ha hb hab hnum =>
    ⟨answersVec_of_isRelation isRelation_isLt rfl ha hb hab hnum,
      answersVec_of_isRelation isRelation_isLe rfl ha hb hab hnum,
      answersVec_of_isRelation isRelation_isGt rfl ha hb hab hnum,
      answersVec_of_isRelation isRelation_isGe rfl ha hb hab hnum⟩,
    unacceptedOperandsAreIllegal _, unacceptedOperandsAreIllegal _, unacceptedOperandsAreIllegal _,
    unacceptedOperandsAreIllegal _⟩

/-- Settles O25: the bits are EQ's, and every lane of NE is the complement of EQ's lane. -/
theorem notEqualComplementsEqual : Obligations.NotEqualComplementsEqual := by
  intro s a b ha hb hab hca hcb
  refine ⟨(compareVec isEq a b).bits, ?_, ?_⟩
  · exact answers_of_binary (f := compareVec isEq) rfl ha hb hab (accepts := anyTag) rfl hca hcb
  · rw [← compareVec_isNe_bits]
    exact answers_of_binary (f := compareVec isNe) rfl ha hb hab (accepts := anyTag) rfl hca hcb

/-- Settles O26: the rules are the bitwise operations themselves, on the tags R54's table gives them. -/
theorem logicalOperationsActOnBits : Obligations.LogicalOperationsActOnBits := by
  refine ⟨encodedAs_of_encode_eq rfl rfl, encodedAs_of_encode_eq rfl rfl, encodedAs_of_encode_eq rfl rfl,
    encodedAs_of_encode_eq rfl rfl, fun s a b ha hb ht hab hca hcb => ⟨?_, ?_, ?_⟩, fun s a ha ht hca => ?_,
    unacceptedOperandsAreIllegal _, unacceptedOperandsAreIllegal _, unacceptedOperandsAreIllegal _,
    unacceptedOperandsAreIllegal _⟩
  · exact answers_of_binary (f := fun a b => ⟨a.tag, a.bits &&& b.bits⟩) rfl ha hb hab (logicalTag_of_ne_float ht) hca hcb
  · exact answers_of_binary (f := fun a b => ⟨a.tag, a.bits ||| b.bits⟩) rfl ha hb hab (logicalTag_of_ne_float ht) hca hcb
  · exact answers_of_binary (f := fun a b => ⟨a.tag, a.bits ^^^ b.bits⟩) rfl ha hb hab (logicalTag_of_ne_float ht) hca hcb
  · exact answers_of_unary (f := fun a => ⟨a.tag, ~~~a.bits⟩) rfl ha (logicalTag_of_ne_float ht) hca

end Sys2Proof.Machine

/-! Proofs. Shifts (spec/43_shift.md R140 to R143): what each lane rule gives, as the arithmetic on the lane's unsigned or
signed value, and what each operation answers. -/

namespace Sys2Proof.Machine

/-! The lane rules -/

section LaneRules
variable {w s : Nat}

theorem toNat_shiftLeftLane (h : s < w) (x : BitVec w) : (shiftLeftLane w s x).toNat = x.toNat * 2 ^ s % 2 ^ w := by
  rw [shiftLeftLane, if_neg h.not_ge, BitVec.toNat_ofNat]

theorem shiftLeftLane_of_le (h : w ≤ s) (x : BitVec w) : shiftLeftLane w s x = 0 := if_pos h

/-- No bit is lost at the top: the quotient is below the lane. -/
theorem toNat_shiftRightLane (h : s < w) (x : BitVec w) : (shiftRightLane w s x).toNat = x.toNat / 2 ^ s := by
  rw [shiftRightLane, if_neg h.not_ge, BitVec.toNat_ofNat,
    Nat.mod_eq_of_lt ((Nat.div_le_self _ _).trans_lt x.isLt)]

theorem shiftRightLane_of_le (h : w ≤ s) (x : BitVec w) : shiftRightLane w s x = 0 := if_pos h

theorem shiftArithLane_eq_sshiftRight (x : BitVec w) : shiftArithLane w s x = x.sshiftRight (min s (w - 1)) := by
  rw [shiftArithLane, BitVec.sshiftRight_eq, Int.shiftRight_eq_div_pow]
  rfl

/-- The divisor is positive, so the quotient is the floor. -/
theorem toInt_shiftArithLane (x : BitVec w) :
    (shiftArithLane w s x).toInt = Int.fdiv x.toInt (2 ^ min s (w - 1)) := by
  have hpos : (0 : Int) ≤ 2 ^ min s (w - 1) := by positivity
  rw [shiftArithLane_eq_sshiftRight, BitVec.toInt_sshiftRight, Int.shiftRight_eq_div_pow,
    Int.fdiv_eq_ediv_of_nonneg _ hpos]
  norm_cast

end LaneRules

/-! The rule of a shift -/

/-- A shift on an integer A: every lane by its lane rule, with one amount (R140). -/
theorem answersVec_of_shift {i : Instr} {s : State} {a : Vec} {rule : (w s : Nat) → BitVec w → BitVec w}
    {P : Nat → BitVec (laneWidth a.tag) → Prop}
    (hexec : exec i s = s.answer (s.req.unary intTag >>= fun a =>
      .ok (.vec (mkVec a.tag fun k => rule (laneWidth a.tag) s.req.shiftAmount (a.lane k)))))
    (ha : s.req.a = a.port) (hc : category a.tag = .int)
    (hP : ∀ k, P k (rule (laneWidth a.tag) s.req.shamt.toNat (a.lane k))) : AnswersVec i s a.tag P :=
  answersVec_of_lanes (exec_of_unary hexec ha (by simp [intTag, hc]) (by simp [hc])) fun k _ => hP k

/-! The obligations -/

/-- Settles O27: below w the amount multiplies or divides the unsigned lane by 2^s; from w on the lane is zero. -/
theorem logicalShiftsZeroFill : Obligations.LogicalShiftsZeroFill :=
  ⟨encodedAs_of_encode_eq rfl rfl, encodedAs_of_encode_eq rfl rfl, fun _ _ ha hc =>
    ⟨answersVec_of_shift (rule := shiftLeftLane) rfl ha hc fun _ =>
        ⟨fun h => toNat_shiftLeftLane h _, fun h => shiftLeftLane_of_le h _⟩,
      answersVec_of_shift (rule := shiftRightLane) rfl ha hc fun _ =>
        ⟨fun h => toNat_shiftRightLane h _, fun h => shiftRightLane_of_le h _⟩⟩,
    unacceptedOperandsAreIllegal _, unacceptedOperandsAreIllegal _⟩

/-- Settles O28: the lane rule is the arithmetic shift by the clamped amount, the floor of its quotient. -/
theorem arithmeticShiftClamps : Obligations.ArithmeticShiftClamps :=
  ⟨encodedAs_of_encode_eq rfl rfl, fun _ _ ha hc =>
    answersVec_of_shift (rule := shiftArithLane) rfl ha hc fun _ => toInt_shiftArithLane _,
    unacceptedOperandsAreIllegal _⟩

end Sys2Proof.Machine

/-! Proofs. The permute engine and select (spec/44_permute_select.md R150, R160 to R162): the index check, said once, and
what each operation answers lane by lane. The corner cases follow from the lanes. -/

namespace Sys2Proof.Machine

/-! The index check (R150) -/

theorem checkIndices_ok {r : Request} {n bound : Nat} (h : ∀ i < n, r.index i < bound) :
    checkIndices r n bound = .ok () := by
  have hnone : lowest (fun i => bound ≤ r.index i) n = none := lowest_eq_none.2 (by simpa using h)
  simp [checkIndices, hnone]

/-- The check names the lowest bad position. -/
theorem checkIndices_of_lowest_bad {r : Request} {n bound i : Nat} (hi : i < n) (hbad : bound ≤ r.index i)
    (hgood : ∀ j < i, r.index j < bound) :
    checkIndices r n bound = .error (.indexOutOfRange (BitVec.ofNat 32 i)) := by
  have hsome : lowest (fun i => bound ≤ r.index i) n = some i :=
    lowest_eq_some.2 ⟨hi, by simpa using hbad, by simpa using hgood⟩
  simp [checkIndices, hsome]

/-- A rule that checks n(T) indices against a bound and then builds a value of tag T by lanes. -/
def Request.permuted (r : Request) (t : Tag) (bound : Nat) (f : Nat → BitVec (laneWidth t)) : Reply := do
  checkIndices r (laneCount t) bound
  return .vec (mkVec t f)

section Permuted
variable {i : Instr} {s : State} {t : Tag} {bound : Nat} {f : Nat → BitVec (laneWidth t)}
  (hexec : exec i s = s.answer (s.req.permuted t bound f))
include hexec

theorem answersVec_of_permuted {P : Nat → BitVec (laneWidth t) → Prop}
    (hindex : ∀ k < laneCount t, s.req.index k < bound) (hP : ∀ k < laneCount t, P k (f k)) : AnswersVec i s t P := by
  rw [Request.permuted, checkIndices_ok hindex] at hexec
  exact answersVec_of_lanes hexec hP

theorem answersError_of_permuted {k : Nat} (hk : k < laneCount t) (hbad : bound ≤ s.req.index k)
    (hgood : ∀ j < k, s.req.index j < bound) : AnswersError i s .indexOutOfRange (BitVec.ofNat 32 k) := by
  rw [Request.permuted, checkIndices_of_lowest_bad hk hbad hgood] at hexec
  exact answersError_of_reply hexec (by simp [errorStatus])

end Permuted

/-! The rules on accepted, canonical operands -/

section CheckedOperands
variable {s : State} {a b m : Vec}

theorem exec_swizzle (ha : s.req.a = a.port) (hca : a.Canonical) (hn : s.req.n.toNat = laneCount a.tag) :
    exec .swizzle s = s.answer (s.req.permuted a.tag (laneCount a.tag) fun k => a.lane (s.req.index k)) := by
  rw [exec, execSwizzle, counted_ok ha hn hca]
  rfl

theorem exec_shuffle (ha : s.req.a = a.port) (hb : s.req.b = b.port) (hab : b.tag = a.tag) (hca : a.Canonical)
    (hcb : b.Canonical) (hn : s.req.n.toNat = laneCount a.tag) :
    exec .shuffle s = s.answer (s.req.permuted a.tag (2 * laneCount a.tag) fun k =>
      if s.req.index k < laneCount a.tag then a.lane (s.req.index k)
      else lane (laneWidth a.tag) b.bits (s.req.index k - laneCount a.tag)) := by
  rw [exec, execShuffle, countedPair_ok ha hb hab hn hca hcb]
  rfl

theorem exec_select (ha : s.req.a = a.port) (hb : s.req.b = b.port) (hm : s.req.m = m.port) (hab : b.tag = a.tag)
    (hmt : m.tag = boolTag a.tag) (hca : a.Canonical) (hcb : b.Canonical) (hcm : m.Canonical) :
    exec .select s = s.answer (.ok (.vec (mkVec a.tag fun k =>
      if lane (laneWidth a.tag) m.bits k = BitVec.allOnes (laneWidth a.tag) then a.lane k
      else lane (laneWidth a.tag) b.bits k))) := by
  rw [exec, execSelect, masked_ok ha hb hab hm hmt hca hcb hcm]
  rfl

end CheckedOperands

/-! The mask of SELECT (R162) -/

/-- A canonical mask's lanes, read at the lane width of the values it selects from. -/
theorem mask_lane_cases {m : Vec} {t : Tag} (hmt : m.tag = boolTag t) (hcm : m.Canonical) {k : Nat}
    (hk : k < laneCount t) :
    lane (laneWidth t) m.bits k = 0 ∨ lane (laneWidth t) m.bits k = BitVec.allOnes (laneWidth t) := by
  have h := hcm.lane_at hmt (category_boolTag t) (laneCount_boolTag t ▸ hk)
  rwa [laneWidth_boolTag] at h

theorem lane_blend (t : Tag) (m a b : Bits) {k : Nat} (hk : k < laneCount t) :
    lane (laneWidth t) ((m &&& a) ||| (~~~m &&& b)) k =
      (lane (laneWidth t) m k &&& lane (laneWidth t) a k) ||| (~~~lane (laneWidth t) m k &&& lane (laneWidth t) b k) := by
  rw [lane_or, lane_and, lane_and, lane_not _ _ (lane_end_le t hk)]

/-! The obligations -/

/-- Settles O29: the index check comes after the operand's, and with every index in range lane k is A's lane L[k]. -/
theorem swizzleSelectsLanes : Obligations.SwizzleSelectsLanes := by
  refine ⟨encodedAs_of_encode_eq rfl rfl, fun s a ha hca hn => ⟨fun hindex => ?_, fun k hk hbad hgood => ?_⟩,
    unacceptedOperandsAreIllegal _⟩
  · exact answersVec_of_permuted (exec_swizzle ha hca hn) hindex fun _ _ => rfl
  · exact answersError_of_permuted (exec_swizzle ha hca hn) hk hbad hgood

/-- Settles O30: an index below n takes A's lane, one from n on B's, and one from 2n on is the error's. -/
theorem shuffleSelectsFromBoth : Obligations.ShuffleSelectsFromBoth := by
  refine ⟨encodedAs_of_encode_eq rfl rfl,
    fun s a b ha hb hab hca hcb hn => ⟨fun hindex => ?_, fun k hk hbad hgood => ?_⟩, unacceptedOperandsAreIllegal _⟩
  · exact answersVec_of_permuted (exec_shuffle ha hb hab hca hcb hn) hindex fun _ _ =>
      ⟨fun hlt => if_pos hlt, fun hge => if_neg (Nat.not_lt.2 hge)⟩
  · exact answersError_of_permuted (exec_shuffle ha hb hab hca hcb hn) hk hbad hgood

/-- Settles O31: the rule's test is "all ones", which a mask lane of 0 is not; the operand checks refuse a non-canonical
mask. -/
theorem selectBlendsByMask : Obligations.SelectBlendsByMask := by
  refine ⟨encodedAs_of_encode_eq rfl rfl, fun s a b m ha hb hm hab hmt hca hcb hcm => ?_,
    unacceptedOperandsAreIllegal _, nonCanonicalOperandsAreUnsupported _⟩
  refine answersVec_of_lanes (exec_select ha hb hm hab hmt hca hcb hcm) fun k _ => ⟨fun h => if_pos h, fun h => ?_⟩
  exact if_neg (by simp [h, (laneWidth_pos a.tag).ne'])

/-- Settles O32: lane by lane, the blend with a mask lane of all ones is A's lane, and with one of 0 is B's. -/
theorem selectIsBitwiseBlend : Obligations.SelectIsBitwiseBlend := by
  intro s a b m ha hb hm hab hmt hca hcb hcm
  obtain ⟨_, hselect, _⟩ := selectBlendsByMask
  obtain ⟨bits, hanswers, hlanes⟩ := hselect s a b m ha hb hm hab hmt hca hcb hcm
  have hbits : bits = (m.bits &&& a.bits) ||| (~~~m.bits &&& b.bits) := by
    refine bits_eq_of_lanes (laneWidth_mul_laneCount a.tag) fun k hk => ?_
    obtain ⟨hfromA, hfromB⟩ := hlanes k hk
    rw [lane_blend a.tag _ _ _ hk]
    rcases mask_lane_cases hmt hcm hk with h | h
    · simp [hfromB h, h]
    · simp [hfromA h, h, Vec.lane]
  exact hbits ▸ hanswers

/-- Settles O33: the identity indices are in range, and the value whose lanes are A's lanes is A. -/
theorem identitySwizzleReturnsOperand : Obligations.IdentitySwizzleReturnsOperand := by
  intro s a ha hca hn hid
  obtain ⟨_, hswizzle, _⟩ := swizzleSelectsLanes
  obtain ⟨bits, hanswers, hlanes⟩ := (hswizzle s a ha hca hn).1 fun i hi => (hid i hi).trans_lt hi
  have hbits : bits = a.bits :=
    bits_eq_of_lanes (laneWidth_mul_laneCount a.tag) fun k hk => (hlanes k hk).trans (by rw [hid k hk, Vec.lane])
  rwa [hbits] at hanswers

end Sys2Proof.Machine

/-! Proofs. Casts (spec/45_conversion.md R170 to R177): the range test of CVT as a test of the exponent field, the exact
values its lane rules give, and what CVT and FROMBITS answer. -/

namespace Sys2Proof.Machine

/-! The magnitudes of an exponent field -/

section Magnitudes
variable {f : Word} {e : Nat}

theorem natAbs_fval (f : Word) : (fval f).natAbs = magnitude f := by
  unfold fval
  split <;> simp

theorem magnitude_le_of_expField_le (h : expField f ≤ e + 1) : magnitude f ≤ (2 ^ 24 - 1) * 2 ^ e := by
  have hfrac := fracField_lt f
  rw [magnitude]
  split
  · have : 0 < 2 ^ e := by positivity
    omega
  · exact Nat.mul_le_mul (by omega) (Nat.pow_le_pow_right (by omega) (by omega))

theorem le_magnitude_of_le_expField (h : e + 1 ≤ expField f) : 2 ^ 23 * 2 ^ e ≤ magnitude f := by
  rw [magnitude, if_neg (by omega)]
  exact Nat.mul_le_mul (by omega) (Nat.pow_le_pow_right (by omega) (by omega))

end Magnitudes

/-! The range test (R170) -/

theorem convertible_iff_inIntRange (a : Word) : convertible a = true ↔ InIntRange a := by
  simp [convertible, InIntRange, and_assoc]

/-- An exponent field of 158 is the magnitude 2^31, so the greatest magnitude below it lies within both bounds. -/
theorem inIntRange_iff_expField_lt (a : Word) : InIntRange a ↔ expField a < 158 := by
  have habs := natAbs_fval a
  constructor
  · rintro ⟨_, hlo, hhi⟩
    by_contra he
    have hmag := le_magnitude_of_le_expField (f := a) (e := 157) (by omega)
    omega
  · intro he
    have hmag := magnitude_le_of_expField_le (f := a) (e := 156) (by omega)
    exact ⟨by simp [isNaN, show expField a ≠ 255 by omega], by omega, by omega⟩

/-- 0x4F000000 is the exponent field 158 over a fraction of 0. -/
theorem magnitudeTest_iff_expField_lt (a : Word) : (a &&& 0x7FFFFFFF).toNat < 0x4F000000 ↔ expField a < 158 := by
  have hmask : (a &&& 0x7FFFFFFF).toNat = a.toNat % 2 ^ 31 := Nat.and_two_pow_sub_one_eq_mod a.toNat 31
  rw [hmask, expField_eq]
  omega

theorem inIntRange_iff_magnitudeTest (a : Word) : InIntRange a ↔ (a &&& 0x7FFFFFFF).toNat < 0x4F000000 :=
  (inIntRange_iff_expField_lt a).trans (magnitudeTest_iff_expField_lt a).symm

/-! The lane rules (R171, R172) -/

theorem floatToInt_eq_ofInt_tdiv (a : Word) : floatToInt a = BitVec.ofInt 32 (Int.tdiv (fval a) (2 ^ 149)) := by
  have hdiv : Int.tdiv (magnitude a) (2 ^ 149) = (magnitude a / 2 ^ 149 : Nat) := by
    rw [Int.tdiv_eq_ediv_of_nonneg (by positivity)]
    norm_cast
  unfold floatToInt fval
  split
  · rw [Int.neg_tdiv, hdiv]
  · rw [hdiv]

/-- In range the quotient fits its lane, so no bit is lost. -/
theorem toInt_floatToInt {a : Word} (h : InIntRange a) : (floatToInt a).toInt = Int.tdiv (fval a) (2 ^ 149) := by
  obtain ⟨_, hlo, hhi⟩ := h
  have habs : (Int.tdiv (fval a) (2 ^ 149)).natAbs = (fval a).natAbs / 2 ^ 149 := Int.natAbs_tdiv ..
  rw [floatToInt_eq_ofInt_tdiv, BitVec.toInt_ofInt_eq_self (by decide) (by omega) (by omega)]

theorem signBit_intToFloat (a : Word) : signBit (intToFloat a) = decide (a.toInt < 0) :=
  signBit_mkFloat_roundPattern ..

theorem nearestEven_intToFloat (a : Word) : NearestEven (a.toInt * 2 ^ 149) 1 (intToFloat a) := by
  have hround := roundingIsNearestEven (a.toInt.natAbs * 2 ^ 149) 1 (decide (a.toInt < 0)) Nat.one_pos
  have hvalue : (if decide (a.toInt < 0) then -((a.toInt.natAbs * 2 ^ 149 : Nat) : Int)
      else (a.toInt.natAbs * 2 ^ 149 : Nat)) = a.toInt * 2 ^ 149 := by
    simp only [decide_eq_true_eq]
    omega
  rwa [hvalue] at hround

/-! CVT's two outcomes on Float32x4 (R175) -/

theorem convertToInt_of_inIntRange {a : Vec} (hrange : ∀ i < 4, InIntRange (lane 32 a.bits i)) :
    convertToInt a = .ok (.vec (mkVec .int32x4 fun i => floatToInt (lane 32 a.bits i))) := by
  have hnone : lowest (fun i => !convertible (lane 32 a.bits i)) 4 = none :=
    lowest_eq_none.2 (by simpa [convertible_iff_inIntRange] using hrange)
  rw [convertToInt, hnone]

theorem convertToInt_of_lowest_bad {a : Vec} {i : Nat} (hi : i < 4) (hbad : ¬ InIntRange (lane 32 a.bits i))
    (hgood : ∀ j < i, InIntRange (lane 32 a.bits j)) :
    convertToInt a = .error (.rangeError (BitVec.ofNat 32 i)) := by
  have hsome : lowest (fun i => !convertible (lane 32 a.bits i)) 4 = some i :=
    lowest_eq_some.2 ⟨hi, by simpa [← convertible_iff_inIntRange] using hbad,
      by simpa [convertible_iff_inIntRange] using hgood⟩
  rw [convertToInt, hsome]

/-! CVT on the operands it accepts (R175) -/

section Conversions
variable {s : State} {a : Vec} (ha : s.req.a = a.port)
include ha

theorem exec_cvt_int32x4 (ht : a.tag = .float32x4) : exec (.cvt (some .int32x4)) s = s.answer (convertToInt a) := by
  have hacc : convertTag a.tag = true := by rw [ht]; rfl
  rw [exec, execCvt, unary_ok ha hacc (canonical_of_convertTag hacc)]
  simp only [bind, Except.bind, ht]

theorem exec_cvt_float32x4 (ht : a.tag = .int32x4) : exec (.cvt (some .float32x4)) s = s.answer (convertToFloat a) := by
  have hacc : convertTag a.tag = true := by rw [ht]; rfl
  rw [exec, execCvt, unary_ok ha hacc (canonical_of_convertTag hacc)]
  simp only [bind, Except.bind, ht]

theorem answersVec_cvt_of_inIntRange (ht : a.tag = .float32x4) (hrange : ∀ i < 4, InIntRange (lane 32 a.bits i)) :
    AnswersVec (.cvt (some .int32x4)) s .int32x4 fun k r =>
      r.toInt = Int.tdiv (fval (lane 32 a.bits k)) (2 ^ 149) := by
  have hexec := exec_cvt_int32x4 ha ht
  rw [convertToInt_of_inIntRange hrange] at hexec
  exact answersVec_of_lanes hexec fun k hk => toInt_floatToInt (hrange k hk)

theorem answersError_cvt_of_not_inIntRange (ht : a.tag = .float32x4) {i : Nat} (hi : i < 4)
    (hbad : ¬ InIntRange (lane 32 a.bits i)) (hgood : ∀ j < i, InIntRange (lane 32 a.bits j)) :
    AnswersError (.cvt (some .int32x4)) s .rangeError (BitVec.ofNat 32 i) := by
  have hexec := exec_cvt_int32x4 ha ht
  rw [convertToInt_of_lowest_bad hi hbad hgood] at hexec
  exact answersError_of_reply hexec (by simp [errorStatus])

/-! FROMBITS on a canonical operand (R177) -/

theorem answers_fromBits (hca : a.Canonical) {t : Tag} (hview : Vec.Canonical { tag := t, bits := a.bits }) :
    Answers (.fromBits (some t)) s { status := .ok, errInfo := 0, rv := { tag := some t, bits := a.bits }, rs := 0 } := by
  have hexec : exec (.fromBits (some t)) s = s.answer (.ok (.vec { tag := t, bits := a.bits })) := by
    rw [exec, execFromBits, unary_ok (accepts := anyTag) ha rfl hca]
    simp only [bind, Except.bind, checkCanonical_of_canonical hview, pure, Except.pure]
  exact answers_of_reply hexec rfl (by simp)

/-- The view is checked after the operand, and names its own lowest bad lane. -/
theorem exec_fromBits_of_bad_view (hca : a.Canonical) {t : Tag} {k : Nat}
    (hk : FirstBadLane [{ tag := t, bits := a.bits }] k) :
    exec (.fromBits (some t)) s = .refused (.unsupported (BitVec.ofNat 32 k)) :=
  (refusedExactlyWhereUnsupported _ s _).2
    ⟨[a], k, ⟨rfl, a, ha, (anyTag_iff _).1 rfl, rfl⟩, unsupportedAt_fromBits.2 (firstBadLane_cons.2 (.inr ⟨hca, hk⟩)), rfl⟩

end Conversions

/-! The obligations -/

/-- Settles O34: the rule's range test is the statement's, its quotient is that of the value, and from Int32 it rounds the
exact value. -/
theorem cvtConvertsValues : Obligations.CvtConvertsValues :=
  ⟨encodedAs_of_encode_eq rfl rfl, encodedAs_of_encode_eq rfl rfl,
    fun _ _ ha ht => ⟨answersVec_cvt_of_inIntRange ha ht, fun _ => answersError_cvt_of_not_inIntRange ha ht⟩,
    fun _ _ ha ht => answersFloats_of_lanes (exec_cvt_float32x4 ha ht) fun _ _ =>
      ⟨signBit_intToFloat _, nearestEven_intToFloat _⟩,
    fun _ => unacceptedOperandsAreIllegal _⟩

/-- Settles O35: both tests ask for an exponent field below 158. -/
theorem rangeTestIsMagnitudeTest : Obligations.RangeTestIsMagnitudeTest := by
  refine ⟨fun a => (convertible_iff_inIntRange a).trans (inIntRange_iff_magnitudeTest a), fun s a ha ht => ?_⟩
  simp only [← inIntRange_iff_magnitudeTest]
  refine ⟨fun hrange => ?_, fun _ => answersError_cvt_of_not_inIntRange ha ht⟩
  obtain ⟨bits, hanswers, _⟩ := answersVec_cvt_of_inIntRange ha ht hrange
  exact ⟨bits, hanswers⟩

/-- Settles O36: the view under TT is the operand's own bits, and its check is FROMBITS's second. -/
theorem fromBitsKeepsBits : Obligations.FromBitsKeepsBits :=
  ⟨fun t => encodedAs_of_encode_eq (by cases t <;> rfl) rfl,
    fun _ _ _ ha hca => ⟨answers_fromBits ha hca, fun _ => exec_fromBits_of_bad_view ha hca⟩,
    fun _ => unacceptedOperandsAreIllegal _⟩

/-- Settles O37: the view between is canonical, and viewed under A's tag it is A. -/
theorem fromBitsRoundTrip : Obligations.FromBitsRoundTrip := fun _ a t ha hca hview =>
  ⟨_, answers_fromBits ha hca hview, fun _ hp =>
    answers_fromBits (a := { tag := t, bits := a.bits }) hp hview (t := a.tag) hca⟩

end Sys2Proof.Machine

/-! Proofs. Equality and reductions (spec/46_equality_reduction.md R180 to R184): each operation answers one test of its
operands on RS, so each proof says which property the test decides. -/

namespace Sys2Proof.Machine

/-! A test's outcome on RS -/

section ScalarAnswers
variable {i : Instr} {s : State} {a b : Vec} {P : Prop}

theorem answersScalar_of_test {p : Bool} (hexec : exec i s = s.answer (.ok (.scalar (boolScalar p)))) (hp : p = true ↔ P) :
    (P → AnswersScalar i s 1) ∧ (¬ P → AnswersScalar i s 0) := by
  refine ⟨fun hP => ?_, fun hP => ?_⟩
  · rw [hp.2 hP] at hexec
    exact answersScalar_of_reply hexec
  · rw [Bool.eq_false_of_not_eq_true (mt hp.1 hP)] at hexec
    exact answersScalar_of_reply hexec

/-- A test of A and B, of any two tags, once both are canonical. -/
theorem answersScalar_of_anyPair {p : Vec → Vec → Bool}
    (hexec : exec i s = s.answer (s.req.anyPair >>= fun q => .ok (.scalar (boolScalar (p q.1 q.2)))))
    (ha : s.req.a = a.port) (hb : s.req.b = b.port) (hca : a.Canonical) (hcb : b.Canonical) (hp : p a b = true ↔ P) :
    (P → AnswersScalar i s 1) ∧ (¬ P → AnswersScalar i s 0) := by
  rw [anyPair_ok ha hb hca hcb] at hexec
  exact answersScalar_of_test hexec hp

/-- A test of A, of a bool tag, once it is canonical. -/
theorem answersScalar_of_boolUnary {p : Vec → Bool}
    (hexec : exec i s = s.answer (s.req.unary boolOnlyTag >>= fun a => .ok (.scalar (boolScalar (p a)))))
    (ha : s.req.a = a.port) (hbool : category a.tag = .bool) (hca : a.Canonical) (hp : p a = true ↔ P) :
    (P → AnswersScalar i s 1) ∧ (¬ P → AnswersScalar i s 0) := by
  rw [unary_ok ha (by simp [boolOnlyTag, hbool]) hca] at hexec
  exact answersScalar_of_test hexec hp

end ScalarAnswers

/-! The same value (R181, R182) -/

theorem sameFloat_iff (x y : Word) : sameFloat x y = true ↔ (isNaN x ∧ isNaN y) ∨ x = y := by
  simp [sameFloat]

theorem sameFloatZero_iff (x y : Word) :
    sameFloatZero x y = true ↔ (isNaN x ∧ isNaN y) ∨ x = y ∨ (isZero x ∧ isZero y) := by
  simp [sameFloatZero, sameFloat_iff, or_assoc]

theorem sameVec_iff {same : Word → Word → Bool} {R : Word → Word → Prop} (hsame : ∀ x y, same x y = true ↔ R x y)
    (a b : Vec) :
    sameVec same a b = true ↔
      a.tag = b.tag ∧
        if a.tag = .float32x4 then ∀ i < 4, R (lane 32 a.bits i) (lane 32 b.bits i) else a.bits = b.bits := by
  rw [sameVec, Bool.and_eq_true, beq_iff_eq]
  refine and_congr_right' ?_
  simp only [← category_float_iff]
  cases category a.tag
  · simp [hsame]
  · simp
  · simp

/-! Reductions (R183, R184) -/

theorem any_laneTrue_iff (a : Vec) (n : Nat) :
    (List.range n).any (laneTrue a) = true ↔ ∃ i < n, a.lane i = BitVec.allOnes (laneWidth a.tag) := by
  simp [laneTrue]

theorem all_laneTrue_iff (a : Vec) (n : Nat) :
    (List.range n).all (laneTrue a) = true ↔ ∀ i < n, a.lane i = BitVec.allOnes (laneWidth a.tag) := by
  simp [laneTrue]

/-- A false lane is not a true one: no lane width is 0. -/
theorem zero_ne_allOnes_laneWidth (t : Tag) : (0 : BitVec (laneWidth t)) ≠ BitVec.allOnes (laneWidth t) := by
  cases t <;> decide

/-! The obligations -/

/-- Settles O38: the test is equality of the bits, and reads no tag. -/
theorem bitEqComparesBits : Obligations.BitEqComparesBits :=
  ⟨encodedAs_of_encode_eq rfl rfl, fun _ _ _ ha hb hca hcb =>
    answersScalar_of_anyPair (p := fun a b => a.bits == b.bits) rfl ha hb hca hcb beq_iff_eq,
    unacceptedOperandsAreIllegal _⟩

/-- Settles O39: a float lane pair passes where both are NaN or the bits agree. -/
theorem sameValueDistinguishesZeros : Obligations.SameValueDistinguishesZeros :=
  ⟨encodedAs_of_encode_eq rfl rfl, fun _ a b ha hb hca hcb =>
    answersScalar_of_anyPair (p := sameVec sameFloat) rfl ha hb hca hcb (sameVec_iff sameFloat_iff a b),
    unacceptedOperandsAreIllegal _⟩

/-- Settles O40: a float lane pair passes also where both are zeros. -/
theorem sameValueZeroIdentifiesZeros : Obligations.SameValueZeroIdentifiesZeros :=
  ⟨encodedAs_of_encode_eq rfl rfl, fun _ a b ha hb hca hcb =>
    answersScalar_of_anyPair (p := sameVec sameFloatZero) rfl ha hb hca hcb (sameVec_iff sameFloatZero_iff a b),
    unacceptedOperandsAreIllegal _⟩

/-- Settles O41: the tests are the two quantifiers over the lanes, and a lane that is 0 is no true lane. -/
theorem boolReductions : Obligations.BoolReductions := by
  refine ⟨encodedAs_of_encode_eq rfl rfl, encodedAs_of_encode_eq rfl rfl, fun s a ha hbool hca => ?_,
    unacceptedOperandsAreIllegal _, unacceptedOperandsAreIllegal _,
    nonCanonicalOperandsAreUnsupported _, nonCanonicalOperandsAreUnsupported _⟩
  obtain ⟨hany, hnotAny⟩ := answersScalar_of_boolUnary (i := .anyTrue) rfl ha hbool hca (any_laneTrue_iff a _)
  obtain ⟨hall, hnotAll⟩ := answersScalar_of_boolUnary (i := .allTrue) rfl ha hbool hca (all_laneTrue_iff a _)
  have hfalse {i : Nat} (hi : a.lane i = 0) : a.lane i ≠ BitVec.allOnes (laneWidth a.tag) :=
    hi ▸ zero_ne_allOnes_laneWidth a.tag
  refine ⟨hany, fun hzero => hnotAny ?_, hall, fun hzero => hnotAll ?_⟩
  · rintro ⟨i, hi, hones⟩
    exact hfalse (hzero i hi) hones
  · obtain ⟨i, hi, hi0⟩ := hzero
    exact fun hones => hfalse hi0 (hones i hi)

end Sys2Proof.Machine

/-! Proofs. Exceptions (spec/60_exceptions.md R194, R195): the host's read tells an Unsupported response from the others, no
step writes one, and no request stops the machine. -/

namespace Sys2Proof.Machine

/-! The host's read after a first response -/

theorem readResponse_of_unsupported {s : State} (hanswered : s.answered = true) (h : s.rsp.status = .unsupported) :
    s.readResponse = .refused (.unsupported s.rsp.errInfo) := by
  simp [State.readResponse, readFields, hanswered, h]

theorem readResponse_of_claimable {s : State} (hanswered : s.answered = true) (h : s.rsp.Claimable) :
    s.readResponse = .next s.rsp := by
  have hs : s.rsp.status ≠ .unsupported := h
  simp [State.readResponse, readFields, hanswered, hs]

/-- Past a refused request, what the host reads is the refusal itself. -/
theorem readResponse_passUnsupported (s : State) (info : Word) :
    (s.passUnsupported info).readResponse = .refused (.unsupported info) := by
  have hrsp := passUnsupported_rsp s info
  rw [readResponse_of_unsupported (passUnsupported_answered s info) (by rw [hrsp]; rfl), hrsp]
  rfl

/-! The obligations -/

/-- Settles O59: the read looks at STATUS once a response was written. -/
theorem unsupportedIsReadAsRefusal : Obligations.UnsupportedIsReadAsRefusal := fun _ hanswered =>
  ⟨readResponse_of_unsupported hanswered, readResponse_of_claimable hanswered⟩

/-- Settles O60: a step writes a reply's response only where its STATUS is not Unsupported. -/
theorem noStepAnswersUnsupported : Obligations.NoStepAnswersUnsupported := by
  intro s hv
  rcases step_cases s with ⟨reply, _, _, hs, hstep⟩ | ⟨info, _, _, hstep⟩ | ⟨hidle, _⟩
  · have hclaim : (s.writeResponse (responseOf reply)).nextInputs.rsp.Claimable := by simpa [Response.Claimable] using hs
    exact .inr ⟨_, hstep, hclaim, readResponse_of_claimable (by simp) hclaim⟩
  · exact .inl ⟨info, hstep⟩
  · simp [hidle] at hv

/-- Settles O55: a cycle with a request has a next state, the step's own or, past a refusal, one whose read is that refusal. -/
theorem everyRequestIsAnswered : Obligations.EveryRequestIsAnswered := by
  intro s hv
  obtain ⟨_, t, _, ht, hvalid, hreq, hinputs, _⟩ := afterCycle_of_request hv
  refine ⟨t, ht, hvalid, hreq, hinputs, ?_⟩
  rcases afterCycle_cases s with ⟨u, hstep, hu⟩ | ⟨info, hstep, hu⟩
  · cases hu.symm.trans ht
    exact .inl hstep
  · cases hu.symm.trans ht
    exact .inr ⟨info, hstep, readResponse_passUnsupported s info⟩

end Sys2Proof.Machine

/-! Proofs. Reset, the cycle and the run (spec/70_reset_and_hazards.md R220, R222, R226), and the worked encodings
(spec/30_encoding.md, section 5). -/

namespace Sys2Proof.Machine

/-! Which requests get Unsupported (R195), and the end state of a run (R226) -/

/-- A request is refused exactly where its decoded operation gets Unsupported; an illegal word never is. -/
theorem unsupportedRequest_iff_refused {s : State} (hv : s.req.reqValid = true) :
    UnsupportedRequest s.req ↔ ∃ e, respond s = .refused e := by
  constructor
  · rintro ⟨_, i, vs, k, hdec, hvs, hk⟩
    exact ⟨_, (respond_of_decode_ok hdec).trans ((refusedExactlyWhereUnsupported i s _).2 ⟨vs, k, hvs, hk, rfl⟩)⟩
  · rintro ⟨e, he⟩
    cases hdec : decode s.req.opw with
    | ok i =>
      obtain ⟨vs, k, hvs, hk, _⟩ := (refusedExactlyWhereUnsupported i s e).1 ((respond_of_decode_ok hdec).symm.trans he)
      exact ⟨hv, i, vs, k, hdec, hvs, hk⟩
    | error d => cases (respond_of_illegal (s := s) (by simp [hdec])).symm.trans he

/-- What the host reads after a request, whatever its draw: the refusal where the request gets Unsupported, else a response
a claim may rest on. -/
theorem answerTo_cases {r : Request} (hv : r.reqValid = true) (d : Nat) :
    (¬ UnsupportedRequest r ∧ ∃ p, answerTo r d = .next p ∧ p.Claimable) ∨
    (UnsupportedRequest r ∧ ∃ info, answerTo r d = .refused (.unsupported info)) := by
  obtain ⟨s, rfl, rfl⟩ : ∃ s : State, s.req = r ∧ s.draws = d := ⟨{ State.reset with req := r, draws := d }, rfl, rfl⟩
  have hrefused := unsupportedRequest_iff_refused hv
  obtain ⟨reply, hr⟩ := respond_eq_answer s
  have hread := answerTo_eq_readFields hv hr
  rcases answer_cases s reply with ⟨hs, ha⟩ | ⟨info, rfl, ha⟩
  · exact .inl ⟨by simp [hrefused, hr, ha], _, by simpa [readFields, hs] using hread, hs⟩
  · exact .inr ⟨hrefused.2 ⟨_, hr.trans ha⟩, info, hread⟩

section Outcomes
variable {rs : List Request} {s : State}

theorem exists_answerTo_of_mem_outcomesOf {o : Host.Outcome Response Fault Refusal}
    (ho : o ∈ outcomesOf rs.length (s.present rs)) : ∃ r ∈ rs, r.reqValid = true ∧ ∃ d, o = answerTo r d := by
  obtain ⟨ds, _, h⟩ := runAnswersEachRequestInOrder rs s
  rw [h, ← List.map_uncurry_zip_eq_zipWith, List.mem_map] at ho
  obtain ⟨⟨r, d⟩, hrd, rfl⟩ := ho
  obtain ⟨hr, hv⟩ := List.mem_filter.1 (List.of_mem_zip hrd).1
  exact ⟨r, hr, hv, d, rfl⟩

theorem answerTo_mem_outcomesOf {r : Request} (hr : r ∈ rs) (hv : r.reqValid = true) :
    ∃ d, answerTo r d ∈ outcomesOf rs.length (s.present rs) := by
  obtain ⟨ds, hlen, h⟩ := runAnswersEachRequestInOrder rs s
  have hmem : r ∈ rs.filter (·.reqValid) := List.mem_filter.2 ⟨hr, hv⟩
  rw [← List.map_fst_zip hlen.ge, List.mem_map] at hmem
  obtain ⟨⟨_, d⟩, hrd, rfl⟩ := hmem
  rw [h, ← List.map_uncurry_zip_eq_zipWith]
  exact ⟨d, List.mem_map_of_mem hrd⟩

theorem length_outcomesOf_present (rs : List Request) (s : State) :
    (outcomesOf rs.length (s.present rs)).length = (rs.filter (·.reqValid)).length := by
  obtain ⟨ds, hlen, h⟩ := runAnswersEachRequestInOrder rs s
  simp [h, hlen]

end Outcomes

/-- One refusal among responses makes the end state a refusal. -/
theorem allResponses_of_mem_refused {os : List (Host.Outcome Response Fault Refusal)}
    (hall : ∀ o ∈ os, (∃ p, o = .next p) ∨ ∃ info, o = .refused (.unsupported info))
    (hex : ∃ info, .refused (.unsupported info) ∈ os) : ∃ info, allResponses os = .refused (.unsupported info) := by
  induction os with
  | nil => simp at hex
  | cons o os ih =>
    obtain ⟨ho, hos⟩ := List.forall_mem_cons.1 hall
    rcases ho with ⟨p, rfl⟩ | ⟨info, rfl⟩
    · obtain ⟨info, h⟩ := ih hos (by simpa using hex)
      exact ⟨info, by simp [allResponses, h]⟩
    · exact ⟨info, rfl⟩

/-- Settles O54: each outcome of the run is its own request's, a claimable response or, for an Unsupported one, a refusal. -/
theorem runEndIsItsResponsesOrRefused : Obligations.RunEndIsItsResponsesOrRefused := by
  intro rs s
  refine ⟨fun hrs => ?_, ?_⟩
  · have hclaim : ∀ o ∈ outcomesOf rs.length (s.present rs), ∃ p, .next p = o ∧ p.Claimable := by
      intro o ho
      obtain ⟨r, hr, hv, d, rfl⟩ := exists_answerTo_of_mem_outcomesOf ho
      rcases answerTo_cases hv d with ⟨_, p, hp, hc⟩ | ⟨hu, _⟩
      · exact ⟨p, hp.symm, hc⟩
      · exact absurd hu (hrs r hr)
    obtain ⟨responses, hresp⟩ : outcomesOf rs.length (s.present rs) ∈ Set.range (List.map Host.Outcome.next) := by
      rw [Set.range_list_map]
      exact fun o ho => (hclaim o ho).imp fun _ h => h.1
    refine ⟨responses, ?_, ?_, fun p hp => ?_, hresp.symm⟩
    · rw [State.runEnd, ← hresp, allResponses_map]
    · simpa [← hresp] using length_outcomesOf_present rs s
    · obtain ⟨q, hq, hc⟩ := hclaim (.next p) (hresp ▸ List.mem_map_of_mem hp)
      cases hq
      exact hc
  · rintro ⟨r, hr, hu⟩
    refine allResponses_of_mem_refused (fun o ho => ?_) ?_
    · obtain ⟨r', _, hv, d, rfl⟩ := exists_answerTo_of_mem_outcomesOf ho
      rcases answerTo_cases hv d with ⟨_, p, hp, _⟩ | ⟨_, h⟩
      · exact .inl ⟨p, hp⟩
      · exact .inr h
    · obtain ⟨d, hd⟩ := answerTo_mem_outcomesOf (s := s) hr hu.1
      rcases answerTo_cases hu.1 d with ⟨hn, _⟩ | ⟨_, info, h⟩
      · exact absurd hu hn
      · exact ⟨info, h ▸ hd⟩

/-! The clocked view (R222) -/

/-- What the response register shows, now and at the edges to come, as far as it is fixed already. -/
def Clocked.shown (c : Clocked) : List Output := c.visible :: c.onTheWay

/-- A clock edge takes the present request, and what its cycle leaves is the last to be shown. -/
theorem tick_cases (c : Clocked) :
    ∃ d, afterCycle c.front = .next d.front ∧ c.tick = .next d ∧ d.shown = c.onTheWay ++ [d.front.output] := by
  obtain ⟨t, ht⟩ : ∃ t, afterCycle c.front = .next t := by
    rcases afterCycle_cases c.front with ⟨t, _, ht⟩ | ⟨_, _, ht⟩ <;> exact ⟨_, ht⟩
  exact ⟨_, ht, by rw [Clocked.tick, ht], by cases h : c.onTheWay <;> simp [Clocked.shown]⟩

/-- Each edge brings the next of the contents on their way to the register. -/
theorem ticks_shows {k : Nat} {c : Clocked} {o : Output} (h : c.shown[k]? = some o) :
    ∃ e, Clocked.ticks k c = .next e ∧ e.visible = o := by
  induction k generalizing c with
  | zero => exact ⟨c, rfl, by simpa [Clocked.shown] using h⟩
  | succ k ih =>
    obtain ⟨d, _, htick, hshown⟩ := tick_cases c
    have hk : c.onTheWay[k]? = some o := by simpa [Clocked.shown] using h
    obtain ⟨hlt, _⟩ := List.getElem?_eq_some_iff.1 hk
    obtain ⟨e, he, ho⟩ := ih (c := d) (by rw [hshown, List.getElem?_append_left hlt, hk])
    exact ⟨e, by simp [Clocked.ticks, htick, he], ho⟩

/-- Settles O57: what the cycle leaves stands behind all that was on its way, so it is shown as many edges later. -/
theorem responseArrivesAfterLatency : Obligations.ResponseArrivesAfterLatency := by
  intro c
  obtain ⟨d, hafter, htick, hshown⟩ := tick_cases c
  obtain ⟨e, hticks, hvisible⟩ := ticks_shows (k := c.onTheWay.length) (c := d) (o := d.front.output) (by simp [hshown])
  exact ⟨d, e, hafter, htick, hticks, hvisible, by rw [hvisible]; rfl⟩

/-! Reset (R220) and the idle cycle (R206, R222) -/

theorem readResponse_of_not_answered {s : State} (h : s.answered = false) :
    s.readResponse = .fault .responseNotWritten := by
  simp [State.readResponse, readFields, h]

/-- Settles O58: reset of either form clears RSP_VALID and the model's bit for a response written. -/
theorem resetInvalidatesResponse : Obligations.ResetInvalidatesResponse :=
  ⟨rfl, readResponse_of_not_answered rfl, fun s =>
    ⟨applyReset_rspValid s, readResponse_of_not_answered (applyReset_answered s), applyReset_req s, applyReset_inputs s⟩⟩

/-- Settles O50: the model's reset values are those of a scalar response, and RSP_VALID is 0. -/
theorem resetResponseLegal : Obligations.ResetResponseLegal := ⟨.inr (.inl ⟨rfl, rfl, rfl⟩), nofun⟩

theorem step_of_idle {s : State} (hv : s.req.reqValid = false) : step s = .next s.idleCycle.nextInputs := by
  simp [step, hv, endCycle]

/-- Settles O56: an idle cycle lowers RSP_VALID, and then the host presents its next signals. -/
theorem idleCycleHoldsResponse : Obligations.IdleCycleHoldsResponse := fun s hv => by
  rw [step_of_idle hv, nextInputs_eq]
  rfl

/-! Worked encodings (spec/30_encoding.md, section 5) -/

/-- Settles O4: each word is the encoding of its operation, and the decoder reads it back. -/
theorem workedEncodingsDecode : Obligations.WorkedEncodingsDecode :=
  ⟨decode_encode (i := .add) rfl, decode_encode (i := .construct (some .int8x16)) rfl,
    decode_encode (i := .cvt (some .int32x4)) rfl, decode_encode (i := .fromBits (some .bool8x16)) rfl,
    decode_encode (i := .addSat) rfl, decode_encode (i := .swizzle) rfl, decode_encode (i := .allTrue) rfl⟩

end Sys2Proof.Machine
